-- ==== Sys2Proof/Word.lean ====
section
/-! DEFINITION. The words of HGW-CORE: bytes, the 29-bit identifier, the CAN message record and the
three wire-frame lengths (spec 00_scope R10, R11; 10_state R28, R29; 30_encoding R70). -/

namespace Sys2Proof

/-- An unsigned byte 0..255 (00_scope R10). -/
abbrev Byte := BitVec 8

/-- The extended identifier of a CAN message, 29 bits (10_state R28, 00_scope R7 `ID_WIDTH`). -/
abbrev Ident := BitVec 29

/-- A CAN message (10_state R28). `dlc` is a count: the spec gives it the range 0..8, and 41_codec R141
says what `ENCODE` does with a larger one, so the record can hold a larger one. -/
structure CanMsg where
  id   : Ident
  dlc  : Nat
  data : Vector Byte 8
  deriving DecidableEq, Repr

/-- A completed frame, by its length: the parser emits the lengths 5, 13 and 15 only
(30_encoding R70, 40_parser R109). All bytes stand in it, the markers too. -/
inductive WireFrame where
  | f5  (bytes : Vector Byte 5)
  | f13 (bytes : Vector Byte 13)
  | f15 (bytes : Vector Byte 15)
  deriving DecidableEq, Repr

end Sys2Proof
end

