-- ==== Sys2Proof/Config.lean ====
section
/-! DEFINITION. The implementation parameters of 00_scope R7, the constants it fixes, the constraints
of 00_scope R8, and the model's free values. The record is a constant of the machine (R9). -/

namespace Sys2Proof

/-- Where each identifier bit stands in the four identifier bytes: a packing that places bits and leaves the
other bits of `b1` to `b4` zero, as the default layout does (30_encoding R76). -/
structure IdLayout where
  /-- `hi[k]` is the place of `id[16 + k]` in the 16-bit word `b1:b2` (bit 15 is bit 7 of `b1`). -/
  hi : List Nat
  /-- `lo[k]` is the place of `id[k]` in the 16-bit word `b3:b4` (bit 15 is bit 7 of `b3`). -/
  lo : List Nat
  deriving DecidableEq, Repr

/-- A packing given by its values: any pair of 30_encoding R78 can be written so, one that inverts or combines
bits too. -/
structure IdTable where
  /-- `hi[n]` is `b1:b2` for an identifier whose `id[28:16]` is `n`. -/
  hi    : List (BitVec 16)
  /-- `lo[n]` is `b3:b4` for an identifier whose `id[15:0]` is `n`. -/
  lo    : List (BitVec 16)
  /-- What four bytes that pack no identifier unpack to, by `b1:b2:b3:b4`; 0 where none is listed. -/
  other : List (BitVec 32 × Ident)
  deriving DecidableEq, Repr

/-- The OPEN parameter pair `ID_PACK` / `ID_UNPACK` (00_scope R7) as plain data, in one of two forms
(log entry 5, DESIGN CHOICE). -/
inductive IdPacking where
  | layout (l : IdLayout)
  | table (t : IdTable)
  deriving DecidableEq, Repr

/-- The parameters of 00_scope R7 that have no value in the source. `N_SLOTS` is the length of the
registry (`State.nSlots`), its one home. -/
structure Config where
  startMarker : Byte
  endMarker   : Byte
  gatewayAddr : Byte
  selFw       : Byte
  selVolt     : Byte
  cannedHw    : List Byte
  cannedFw    : List Byte
  cannedDesc1 : List Byte
  cannedDesc2 : List Byte
  cannedVolt  : List Byte
  packing     : IdPacking
  deriving DecidableEq, Repr

/-- `SEL_HW`, fixed by 00_scope R7 and 30_encoding R83. -/
def Config.selHw : Byte := 0x40#8

/-- `SEL_DESC`, fixed by 00_scope R7 and 30_encoding R83. -/
def Config.selDesc : Byte := 0xE0#8

/-- `BUF_CAP` (00_scope R7). -/
abbrev Config.bufCap : Nat := 16

/-- FREE VALUE (log entry 6): the environment's answer to its `n`-th question (10_state R35, "under no
law") when the state holds no answer for it. No body: nothing can be proved of it. -/
opaque Config.freeAnswer : Nat → Bool

/-- FREE VALUE (log entry 4): the bytes of the canned frames that the spec leaves OPEN (00_scope R7,
30_encoding R86), used by the reset configuration only. No body: nothing can be proved of it. -/
opaque Config.freeCannedByte : Nat → Byte

/-- The default layout of 30_encoding R76, PRESUMED (the spec's general knowledge, log entry 2):
`id[16]` at bit 0 of `b2`, `id[20:17]` at bits 7:4 of `b2`, `id[28:21]` in `b1`, `id[15:0]` in `b3:b4`. -/
def IdLayout.default : IdLayout where
  hi := [0, 4, 5, 6, 7, 8, 9, 10, 11, 12, 13, 14, 15]
  lo := [0, 1, 2, 3, 4, 5, 6, 7, 8, 9, 10, 11, 12, 13, 14, 15]

/-- The layouts for which packing and unpacking meet L1 to L4 of 30_encoding R78: each bit has a place of
its own, the upper 13 bits in `b1:b2`, the lower 16 in `b3:b4`. -/
def IdLayout.ok (l : IdLayout) : Bool :=
  l.hi.length == 13 && l.lo.length == 16 && l.hi.all (· < 16) && l.lo.all (· < 16)
    && decide l.hi.Nodup && decide l.lo.Nodup

/-- The tables for which packing and unpacking meet L1 to L4 of 30_encoding R78: a value for each upper and each
lower half of an identifier, and no value twice. -/
def IdTable.ok (t : IdTable) : Bool :=
  t.hi.length == 2 ^ 13 && t.lo.length == 2 ^ 16 && decide t.hi.Nodup && decide t.lo.Nodup

/-- The packing meets L1 to L4 of 30_encoding R78. -/
def IdPacking.ok : IdPacking → Bool
  | .layout l => l.ok
  | .table t => t.ok

/-- The default layout as a packing. -/
def IdPacking.default : IdPacking := .layout IdLayout.default

/-- A canned frame as 00_scope R8 and 30_encoding R86 require it: 15 bytes between the two markers. -/
def Config.cannedOk (c : Config) (f : List Byte) : Bool :=
  f.length == 15 && f[0]? == some c.startMarker && f[14]? == some c.endMarker

/-- The four selectors are pairwise distinct (00_scope R8). -/
def Config.selectorsDistinct (c : Config) : Bool :=
  c.selFw != Config.selHw && c.selVolt != Config.selHw && c.selFw != Config.selDesc
    && c.selVolt != Config.selDesc && c.selFw != c.selVolt && Config.selHw != Config.selDesc

/-- The constraints of 00_scope R8 on the record; `N_SLOTS >= 1` is `State.configOk`'s. The markers may
be equal. -/
def Config.ok (c : Config) : Bool :=
  c.selectorsDistinct && c.cannedOk c.cannedHw && c.cannedOk c.cannedFw && c.cannedOk c.cannedDesc1
    && c.cannedOk c.cannedDesc2 && c.cannedOk c.cannedVolt && c.packing.ok

/-- A canned frame of the reset configuration: the markers R86 requires around 13 free bytes, its `k`-th
block of free values (log entry 4). -/
def Config.freeCanned (s e : Byte) (k : Nat) : List Byte :=
  s :: (List.range 13).map (fun j => Config.freeCannedByte (13 * k + j)) ++ [e]

/-- The configuration at reset: the defaults 00_scope R7 offers (PRESUMED, the HAPCAN family's, log
entry 2) with canned bytes left free. Every statement is about every configuration, not this one. -/
def Config.default : Config where
  startMarker := 0xAA#8
  endMarker   := 0xA5#8
  gatewayAddr := 0x10#8
  selFw       := 0x60#8
  selVolt     := 0xC0#8
  cannedHw    := Config.freeCanned 0xAA#8 0xA5#8 0
  cannedFw    := Config.freeCanned 0xAA#8 0xA5#8 1
  cannedDesc1 := Config.freeCanned 0xAA#8 0xA5#8 2
  cannedDesc2 := Config.freeCanned 0xAA#8 0xA5#8 3
  cannedVolt  := Config.freeCanned 0xAA#8 0xA5#8 4
  packing     := IdPacking.default

end Sys2Proof
end

