-- ==== Sys2Proof/Syntax.lean ====
section
/-! DEFINITION. The instructions: one constructor per row of spec/opcode_table.json (8 frame kinds of
30_encoding R82 and 17 operations of 30_encoding R88), the operation codes by name, and what the
environment delivers. -/

namespace Sys2Proof

/-- The 25 rows of the opcode table. A frame kind carries the fields its kind does not fix; an operation
carries its operands. -/
inductive Instr where
  -- frame kinds (30_encoding R82)
  | canFrame (id1 id2 id3 id4 : Byte) (d : Vector Byte 8) (cks : Byte)
  | sysqHwType (param : Byte)
  | sysqFwType (param : Byte)
  | sysqDescription (param : Byte)
  | sysqSupplyVoltage (param : Byte)
  | sysqUnknown (selector param : Byte)
  | shortUnrecognized (node cmd param : Byte)
  | reservedF13 (body : Vector Byte 11)
  -- events (10_state R31)
  | evConnect
  | evBytes (c : Nat) (bytes : List Byte)
  | evClosed (c : Nat)
  | evCanRx (m : CanMsg)
  -- stateless ports (10_state R32)
  | checksum (f : List Byte)
  | idPack (id : Ident)
  | idUnpack (b1 b2 b3 b4 : Byte)
  | encode (m : CanMsg)
  | decode (f : List Byte)
  | validate (f : List Byte)
  | decodeStrict (f : List Byte)
  -- internal operations (30_encoding R88), RESPOND also a port (10_state R32)
  | parseByte (i : Nat) (b : Byte)
  | resetParser (i : Nat)
  | respond (f : List Byte)
  | broadcast (f : List Byte)
  | clientFrame (c : Nat) (f : WireFrame)
  | deactivate (i : Nat)
  deriving DecidableEq, Repr

/-- The operation codes of 30_encoding R88, by name; `Tcode.code` gives the numbers. -/
inductive Tcode where
  | evConnect | evBytes | evClosed | evCanRx
  | checksum | idPack | idUnpack | encode | decode | validate | decodeStrict
  | parseByte | resetParser | respond | broadcast | clientFrame | deactivate
  deriving DecidableEq, Repr

/-- The bytes that stand for an instruction: an operation, its tcode and its operands, or a completed wire frame
for the client-receive path (log entries 7 to 9). -/
inductive Delivery where
  | transaction (bytes : List Byte)
  | wireFrame (bytes : List Byte)
  deriving DecidableEq, Repr

/-- Why bytes are no instruction. Raised by `decode`; each refuses the run, which is safe (R269, D33). -/
inductive Reject where
  /-- A transaction without a tcode. -/
  | empty
  /-- A tcode outside 30_encoding R88. -/
  | unknownTcode (code : Byte)
  /-- Fewer operand bytes than the operation takes. -/
  | truncated
  /-- More bytes than the operation takes. -/
  | trailing
  /-- A CLIENT_FRAME operand whose format code is none of F5, F13, F15. -/
  | badFormat (code : Byte)
  /-- Bytes that are no wire frame of 30_encoding R70. -/
  | notAWireFrame
  /-- An internal operation handed in from outside (10_state R32, 30_encoding R88). -/
  | internalOnly (code : Byte)
  deriving DecidableEq, Repr

end Sys2Proof
end

