-- ==== Sys2Proof/WellFormed.lean ====
section
/-! DEFINITION. Which instruction terms stand for something the spec can deliver: a frame kind's fields meet
its row of 30_encoding R82. An operation takes every operand its type holds. -/

namespace Sys2Proof

/-- A selector that is none of the four of 30_encoding R83 (row 6 of R82). -/
def Config.unknownSelector (c : Config) (sel : Byte) : Bool :=
  sel != Config.selHw && sel != c.selFw && sel != Config.selDesc && sel != c.selVolt

/-- The instruction's fields are those its row admits. -/
def WellFormed (c : Config) : Instr → Bool
  | .canFrame _ _ _ _ _ _ => true
  | .sysqHwType _ => true
  | .sysqFwType _ => true
  | .sysqDescription _ => true
  | .sysqSupplyVoltage _ => true
  | .sysqUnknown sel _ => c.unknownSelector sel
  | .shortUnrecognized node _ _ => node != c.gatewayAddr
  | .reservedF13 _ => true
  | .evConnect => true
  | .evBytes _ _ => true
  | .evClosed _ => true
  | .evCanRx _ => true
  | .checksum _ => true
  | .idPack _ => true
  | .idUnpack _ _ _ _ => true
  | .encode _ => true
  | .decode _ => true
  | .validate _ => true
  | .decodeStrict _ => true
  | .parseByte _ _ => true
  | .resetParser _ => true
  | .respond _ => true
  | .broadcast _ => true
  | .clientFrame _ _ => true
  | .deactivate _ => true

end Sys2Proof
end

