-- ==== Sys2Proof/Decode.lean ====
section
/-! DEFINITION. From bytes to instructions and back. Wire frames are read as 30_encoding R70 to R73 and R82
say; an operation is its tcode (30_encoding R88) followed by its operands in the model's own layout (log
entry 8): a natural number of any size in as many bytes as it takes, seven bits in each from the low end and
bit 7 set in all but the last; a byte list after its length; an identifier in four bytes, the high one first. -/

namespace Sys2Proof

/-! ## Bytes and fields -/

/-- Byte `k` of a list, `f[k]` (00_scope R11); 0 where the list is shorter, which no caller reads. -/
def byteAt (f : List Byte) (k : Nat) : Byte := f.getD k 0#8

/-- Byte 0 to 7 of a number, the least significant being byte 0. -/
def natByte (n k : Nat) : Byte := BitVec.ofNat 8 (n >>> (8 * k))

/-- A number in at most `fuel + 1` bytes, seven bits in each from the low end, bit 7 set in all but the last. -/
def putNatFuel : Nat → Nat → List Byte
  | 0, n => [BitVec.ofNat 8 n]
  | fuel + 1, n =>
    if n < 128 then [BitVec.ofNat 8 n] else BitVec.ofNat 8 (128 + n % 128) :: putNatFuel fuel (n / 128)

/-- A number of any size; `n` is fuel enough for `n`. -/
def putNat (n : Nat) : List Byte := putNatFuel n n

/-- A byte list with its length before it. -/
def putBytes (f : List Byte) : List Byte := putNat f.length ++ f

/-- An identifier in four bytes, bits 31:29 zero. -/
def putIdent (id : Ident) : List Byte :=
  [natByte id.toNat 3, natByte id.toNat 2, natByte id.toNat 1, natByte id.toNat 0]

/-- A CAN message: identifier, DLC, eight data bytes. -/
def putMsg (m : CanMsg) : List Byte := putIdent m.id ++ putNat m.dlc ++ m.data.toList

/-- A completed frame: a format code (0 for F5, 1 for F13, 2 for F15) and its bytes. -/
def putFrame : WireFrame → List Byte
  | .f5 v => 0#8 :: v.toList
  | .f13 v => 1#8 :: v.toList
  | .f15 v => 2#8 :: v.toList

/-- The bytes of a completed frame. -/
def WireFrame.bytes : WireFrame → List Byte
  | .f5 v => v.toList
  | .f13 v => v.toList
  | .f15 v => v.toList

/-- Read one byte. -/
def takeByte : List Byte → Except Reject (Byte × List Byte)
  | b :: bs => .ok (b, bs)
  | [] => .error .truncated

/-- Read a number. -/
def takeNat : List Byte → Except Reject (Nat × List Byte)
  | [] => .error .truncated
  | b :: bs =>
    if b.toNat < 128 then .ok (b.toNat, bs)
    else
      match takeNat bs with
      | .ok (n, r) => .ok (b.toNat - 128 + 128 * n, r)
      | .error e => .error e

/-- Read `n` bytes. -/
def takeExactly (n : Nat) (bs : List Byte) : Except Reject (List Byte × List Byte) :=
  if n ≤ bs.length then .ok (bs.take n, bs.drop n) else .error .truncated

/-- Read a byte list with its length. -/
def takeBytes (bs : List Byte) : Except Reject (List Byte × List Byte) :=
  match takeNat bs with
  | .ok (n, bs) => takeExactly n bs
  | .error e => .error e

/-- Read a four-byte identifier field, reduced to `id[28:0]` (41_codec R141). -/
def takeIdent : List Byte → Except Reject (Ident × List Byte)
  | b3 :: b2 :: b1 :: b0 :: bs => .ok ((b3 ++ b2 ++ b1 ++ b0).setWidth 29, bs)
  | _ => .error .truncated

/-- Read eight data bytes. -/
def takeData8 : List Byte → Except Reject (Vector Byte 8 × List Byte)
  | d0 :: d1 :: d2 :: d3 :: d4 :: d5 :: d6 :: d7 :: bs => .ok (#v[d0, d1, d2, d3, d4, d5, d6, d7], bs)
  | _ => .error .truncated

/-- Read a CAN message. -/
def takeMsg (bs : List Byte) : Except Reject (CanMsg × List Byte) := do
  let (id, bs) ← takeIdent bs
  let (dlc, bs) ← takeNat bs
  let (data, bs) ← takeData8 bs
  pure (⟨id, dlc, data⟩, bs)

/-- `n` bytes of a list as a vector. -/
def takeVector (n : Nat) (bs : List Byte) : Except Reject (Vector Byte n × List Byte) :=
  if h : n ≤ bs.length then .ok (⟨⟨bs.take n⟩, by simp [h]⟩, bs.drop n) else .error .truncated

/-- Read a completed frame with its format code. -/
def takeFrame : List Byte → Except Reject (WireFrame × List Byte)
  | [] => .error .truncated
  | t :: bs =>
    if t = 0#8 then (takeVector 5 bs).map (fun r => (.f5 r.1, r.2))
    else if t = 1#8 then (takeVector 13 bs).map (fun r => (.f13 r.1, r.2))
    else if t = 2#8 then (takeVector 15 bs).map (fun r => (.f15 r.1, r.2))
    else .error (.badFormat t)

/-! ## Operation codes (30_encoding R88) -/

/-- The code of each operation. -/
def Tcode.code : Tcode → Byte
  | .evConnect => 0x01#8
  | .evBytes => 0x02#8
  | .evClosed => 0x03#8
  | .evCanRx => 0x04#8
  | .checksum => 0x10#8
  | .idPack => 0x11#8
  | .idUnpack => 0x12#8
  | .encode => 0x13#8
  | .decode => 0x14#8
  | .validate => 0x15#8
  | .decodeStrict => 0x16#8
  | .parseByte => 0x20#8
  | .resetParser => 0x21#8
  | .respond => 0x22#8
  | .broadcast => 0x23#8
  | .clientFrame => 0x24#8
  | .deactivate => 0x25#8

/-- The seventeen operations. -/
def Tcode.all : List Tcode :=
  [.evConnect, .evBytes, .evClosed, .evCanRx, .checksum, .idPack, .idUnpack, .encode, .decode, .validate,
   .decodeStrict, .parseByte, .resetParser, .respond, .broadcast, .clientFrame, .deactivate]

/-- The operation a code names; "all other codes name no operation" (R88). -/
def Tcode.ofByte (b : Byte) : Option Tcode := Tcode.all.find? (fun t => t.code == b)

/-! ## Decoding -/

/-- The operands of an operation, and the bytes left over. -/
def decodeOperands : Tcode → List Byte → Except Reject (Instr × List Byte)
  | .evConnect, bs => .ok (.evConnect, bs)
  | .evBytes, bs => do
    let (c, bs) ← takeNat bs
    let (f, bs) ← takeBytes bs
    pure (.evBytes c f, bs)
  | .evClosed, bs => do
    let (c, bs) ← takeNat bs
    pure (.evClosed c, bs)
  | .evCanRx, bs => do
    let (m, bs) ← takeMsg bs
    pure (.evCanRx m, bs)
  | .checksum, bs => do
    let (f, bs) ← takeBytes bs
    pure (.checksum f, bs)
  | .idPack, bs => do
    let (id, bs) ← takeIdent bs
    pure (.idPack id, bs)
  | .idUnpack, bs => do
    let (b1, bs) ← takeByte bs
    let (b2, bs) ← takeByte bs
    let (b3, bs) ← takeByte bs
    let (b4, bs) ← takeByte bs
    pure (.idUnpack b1 b2 b3 b4, bs)
  | .encode, bs => do
    let (m, bs) ← takeMsg bs
    pure (.encode m, bs)
  | .decode, bs => do
    let (f, bs) ← takeBytes bs
    pure (.decode f, bs)
  | .validate, bs => do
    let (f, bs) ← takeBytes bs
    pure (.validate f, bs)
  | .decodeStrict, bs => do
    let (f, bs) ← takeBytes bs
    pure (.decodeStrict f, bs)
  | .parseByte, bs => do
    let (i, bs) ← takeNat bs
    let (b, bs) ← takeByte bs
    pure (.parseByte i b, bs)
  | .resetParser, bs => do
    let (i, bs) ← takeNat bs
    pure (.resetParser i, bs)
  | .respond, bs => do
    let (f, bs) ← takeBytes bs
    pure (.respond f, bs)
  | .broadcast, bs => do
    let (f, bs) ← takeBytes bs
    pure (.broadcast f, bs)
  | .clientFrame, bs => do
    let (c, bs) ← takeNat bs
    let (f, bs) ← takeFrame bs
    pure (.clientFrame c f, bs)
  | .deactivate, bs => do
    let (i, bs) ← takeNat bs
    pure (.deactivate i, bs)

/-- An operation from its tcode and operand bytes, all of them used up. -/
def decodeTransaction : List Byte → Except Reject Instr
  | [] => .error .empty
  | b :: bs =>
    match Tcode.ofByte b with
    | none => .error (.unknownTcode b)
    | some t =>
      match decodeOperands t bs with
      | .error e => .error e
      | .ok (i, []) => .ok i
      | .ok (_, _ :: _) => .error .trailing

/-- A wire frame of 30_encoding R70: its length is 5, 13 or 15, and the markers open and close it. -/
def isWireFrame (c : Config) (f : List Byte) : Bool :=
  (f.length == 5 || f.length == 13 || f.length == 15)
    && f.head? == some c.startMarker && f.getLast? == some c.endMarker

/-- The kind of a wire frame and the fields it carries, the rows of 30_encoding R82 in their order. -/
def decodeFrame (c : Config) (f : List Byte) : Except Reject Instr :=
  if isWireFrame c f then
    if f.length = 15 then
      .ok (.canFrame (byteAt f 1) (byteAt f 2) (byteAt f 3) (byteAt f 4)
        #v[byteAt f 5, byteAt f 6, byteAt f 7, byteAt f 8, byteAt f 9, byteAt f 10, byteAt f 11, byteAt f 12]
        (byteAt f 13))
    else if f.length = 5 then
      if byteAt f 1 = c.gatewayAddr then
        if byteAt f 2 = Config.selHw then .ok (.sysqHwType (byteAt f 3))
        else if byteAt f 2 = c.selFw then .ok (.sysqFwType (byteAt f 3))
        else if byteAt f 2 = Config.selDesc then .ok (.sysqDescription (byteAt f 3))
        else if byteAt f 2 = c.selVolt then .ok (.sysqSupplyVoltage (byteAt f 3))
        else .ok (.sysqUnknown (byteAt f 2) (byteAt f 3))
      else .ok (.shortUnrecognized (byteAt f 1) (byteAt f 2) (byteAt f 3))
    else
      .ok (.reservedF13 #v[byteAt f 1, byteAt f 2, byteAt f 3, byteAt f 4, byteAt f 5, byteAt f 6,
        byteAt f 7, byteAt f 8, byteAt f 9, byteAt f 10, byteAt f 11])
  else .error .notAWireFrame

/-- The decoder, total on any bytes. -/
def decode (c : Config) : Delivery → Except Reject Instr
  | .transaction bs => decodeTransaction bs
  | .wireFrame f => decodeFrame c f

/-- What the environment may hand to the block: the four events of 10_state R31 and the stateless ports of R32,
`RESPOND` among them. The frame kinds are what the parser finds inside `EV_BYTES`, and the other operations are
"reachable only through the events" (R32). -/
def isInput : Instr → Bool
  | .canFrame _ _ _ _ _ _ => false
  | .sysqHwType _ => false
  | .sysqFwType _ => false
  | .sysqDescription _ => false
  | .sysqSupplyVoltage _ => false
  | .sysqUnknown _ _ => false
  | .shortUnrecognized _ _ _ => false
  | .reservedF13 _ => false
  | .evConnect => true
  | .evBytes _ _ => true
  | .evClosed _ => true
  | .evCanRx _ => true
  | .checksum _ => true
  | .idPack _ => true
  | .idUnpack _ _ _ _ => true
  | .encode _ => true
  | .decode _ => true
  | .validate _ => true
  | .decodeStrict _ => true
  | .parseByte _ _ => false
  | .resetParser _ => false
  | .respond _ => true
  | .broadcast _ => false
  | .clientFrame _ _ => false
  | .deactivate _ => false

/-- An operation the environment hands in; an internal one is rejected by name. -/
def decodeInput (bs : List Byte) : Except Reject Instr :=
  match decodeTransaction bs with
  | .ok i => if isInput i then .ok i else .error (.internalOnly (byteAt bs 0))
  | .error e => .error e

/-! ## Encoding -/

/-- A 5-byte frame (30_encoding R71). -/
def frame5 (c : Config) (node cmd param : Byte) : List Byte :=
  [c.startMarker, node, cmd, param, c.endMarker]

/-- A 13-byte frame (30_encoding R72). -/
def frame13 (c : Config) (body : Vector Byte 11) : List Byte :=
  c.startMarker :: body.toList ++ [c.endMarker]

/-- A 15-byte frame (30_encoding R73). -/
def frame15 (c : Config) (id1 id2 id3 id4 : Byte) (d : Vector Byte 8) (cks : Byte) : List Byte :=
  c.startMarker :: id1 :: id2 :: id3 :: id4 :: d.toList ++ [cks, c.endMarker]

/-- The bytes that stand for an instruction. -/
def encode (c : Config) : Instr → Delivery
  | .canFrame id1 id2 id3 id4 d cks => .wireFrame (frame15 c id1 id2 id3 id4 d cks)
  | .sysqHwType param => .wireFrame (frame5 c c.gatewayAddr Config.selHw param)
  | .sysqFwType param => .wireFrame (frame5 c c.gatewayAddr c.selFw param)
  | .sysqDescription param => .wireFrame (frame5 c c.gatewayAddr Config.selDesc param)
  | .sysqSupplyVoltage param => .wireFrame (frame5 c c.gatewayAddr c.selVolt param)
  | .sysqUnknown sel param => .wireFrame (frame5 c c.gatewayAddr sel param)
  | .shortUnrecognized node cmd param => .wireFrame (frame5 c node cmd param)
  | .reservedF13 body => .wireFrame (frame13 c body)
  | .evConnect => .transaction [Tcode.evConnect.code]
  | .evBytes k bytes => .transaction (Tcode.evBytes.code :: putNat k ++ putBytes bytes)
  | .evClosed k => .transaction (Tcode.evClosed.code :: putNat k)
  | .evCanRx m => .transaction (Tcode.evCanRx.code :: putMsg m)
  | .checksum f => .transaction (Tcode.checksum.code :: putBytes f)
  | .idPack id => .transaction (Tcode.idPack.code :: putIdent id)
  | .idUnpack b1 b2 b3 b4 => .transaction [Tcode.idUnpack.code, b1, b2, b3, b4]
  | .encode m => .transaction (Tcode.encode.code :: putMsg m)
  | .decode f => .transaction (Tcode.decode.code :: putBytes f)
  | .validate f => .transaction (Tcode.validate.code :: putBytes f)
  | .decodeStrict f => .transaction (Tcode.decodeStrict.code :: putBytes f)
  | .parseByte i b => .transaction (Tcode.parseByte.code :: putNat i ++ [b])
  | .resetParser i => .transaction (Tcode.resetParser.code :: putNat i)
  | .respond f => .transaction (Tcode.respond.code :: putBytes f)
  | .broadcast f => .transaction (Tcode.broadcast.code :: putBytes f)
  | .clientFrame k f => .transaction (Tcode.clientFrame.code :: putNat k ++ putFrame f)
  | .deactivate i => .transaction (Tcode.deactivate.code :: putNat i)

/-! ## Words of the opcode table -/

/-- How many operand bytes an operation has when they are all zero. -/
def Tcode.zeroOperandBytes : Tcode → Nat
  | .evConnect => 0
  | .evBytes => 2
  | .evClosed => 1
  | .evCanRx => 13
  | .checksum => 1
  | .idPack => 4
  | .idUnpack => 4
  | .encode => 13
  | .decode => 1
  | .validate => 1
  | .decodeStrict => 1
  | .parseByte => 2
  | .resetParser => 1
  | .respond => 1
  | .broadcast => 1
  | .clientFrame => 7
  | .deactivate => 1

/-- The bytes of an opcode-table word: the first byte is its bits 7:0, the second its bits 15:8. -/
def tableBytes (nbits w : Nat) : List Byte :=
  (List.range ((nbits + 7) / 8)).map (fun k => natByte w k)

/-- An operation's bytes followed by zeros up to its operands' length. -/
def padOperands : List Byte → List Byte
  | [] => []
  | b :: bs =>
    match Tcode.ofByte b with
    | none => b :: bs
    | some t => b :: bs ++ List.replicate (t.zeroOperandBytes - bs.length) 0#8

/-- What an opcode-table word stands for. A frame kind's row lists byte 0 first, so its `match` read as one
number has byte 0 at the top: bytes that are no frame in one order are tried in the other (log entry 15). -/
def tableDelivery (nbits w : Nat) : Delivery :=
  let bs := tableBytes nbits w
  if isWireFrame Config.default bs then .wireFrame bs
  else if isWireFrame Config.default bs.reverse then .wireFrame bs.reverse
  else .transaction (padOperands bs)

/-- The instruction the decoder reads from an opcode-table word, under the reset configuration, whose
parameter values are the ones the table's patterns are written with (30_encoding R89). -/
def decodeTableWord (nbits w : Nat) : Option Instr :=
  (decode Config.default (tableDelivery nbits w)).toOption

end Sys2Proof
end

