-- ==== Sys2Proof/Machine/State.lean ====
section
/-! DEFINITION. The state of HGW-CORE (spec 10_state R20 to R24, R30), what an operation returns, the
reasons a step can stop (60_exceptions R269), and the state after reset (70_reset R280). -/

namespace Sys2Proof.Machine

/-- The two states of a parser (10_state R22). -/
inductive ParserState where
  | wait
  | collecting
  deriving DecidableEq, Repr

/-- The 1-bit encoding of 10_state R22: `WAIT = 0`, `COLLECTING = 1`. -/
def ParserState.bit : ParserState → BitVec 1
  | .wait => 0#1
  | .collecting => 1#1

/-- A FrameParser (10_state R22 to R24): state, fill index 0..16, buffer of 16 bytes. -/
structure Parser where
  st  : ParserState
  idx : Nat
  buf : Vector Byte 16
  deriving DecidableEq, Repr

/-- A connection slot (10_state R21): liveness flag and parser. The transport handle is the
collaborator's and no state of the block (R26). -/
structure Slot where
  active : Bool
  parser : Parser
  deriving DecidableEq, Repr

/-- The direction of a display notification (10_state R30). -/
inductive Direction where
  | busToNet
  | netToBus
  deriving DecidableEq, Repr

/-- A log entry: a kind of 60_exceptions R258 with its info fields. -/
inductive LogEntry where
  | unknownCommand (selector : Byte)
  | unrecognizedShape (length : Nat) (node : Byte)
  | txFail (id : Ident)
  | registryFull
  deriving DecidableEq, Repr

/-- The code of a log kind (60_exceptions R258). -/
def LogEntry.code : LogEntry → Nat
  | .unknownCommand _ => 1
  | .unrecognizedShape _ _ => 2
  | .txFail _ => 3
  | .registryFull => 4

/-- An action of the output trace (10_state R30). -/
inductive Action where
  | write (slot : Nat) (bytes : List Byte) (ok : Bool)
  | transmit (msg : CanMsg) (ok : Bool)
  | notify (dir : Direction) (bytes : List Byte)
  | log (entry : LogEntry)
  deriving DecidableEq, Repr

/-- Why `DECODE` or `DECODE_STRICT` fails (60_exceptions R256, codes 1 to 4). -/
inductive FailCode where
  | badLength
  | badStart
  | badEnd
  | badChecksum
  deriving DecidableEq, Repr

/-- The number of a failure (60_exceptions R256); 0 is `OK`. -/
def FailCode.code : FailCode → Nat
  | .badLength => 1
  | .badStart => 2
  | .badEnd => 3
  | .badChecksum => 4

/-- The result of `DECODE` and `DECODE_STRICT`: `OK(m)` or `FAIL(code)`. -/
inductive DecodeResult where
  | ok (m : CanMsg)
  | fail (code : FailCode)
  deriving DecidableEq, Repr

/-- The status code of a codec result (60_exceptions R256). -/
def DecodeResult.status : DecodeResult → Nat
  | .ok _ => 0
  | .fail c => c.code

/-- What an operation returns (`return v`, 00_scope R12). -/
inductive Result where
  /-- The operation returns nothing. -/
  | nothing
  /-- `EV_CONNECT -> ASSIGNED(i)` (43_broadcast_paths R201). -/
  | assigned (i : Nat)
  /-- `EV_CONNECT -> REJECTED` (R201). -/
  | rejected
  /-- `PARSE_BYTE -> (ready, frame)` (40_parser R100). -/
  | parsed (ready : Bool) (frame : List Byte)
  /-- `CHECKSUM -> byte` (41_codec R130). -/
  | checksum (b : Byte)
  /-- `ID_PACK -> (b1, b2, b3, b4)` (41_codec R131). -/
  | idBytes (b1 b2 b3 b4 : Byte)
  /-- `ID_UNPACK -> id` (41_codec R132). -/
  | ident (id : Ident)
  /-- `ENCODE -> f` (41_codec R133). -/
  | frame (f : List Byte)
  /-- `DECODE`, `DECODE_STRICT` (41_codec R134, R136). -/
  | decoded (r : DecodeResult)
  /-- `VALIDATE -> ok` (41_codec R135). -/
  | valid (ok : Bool)
  /-- `RESPOND -> (replies, log)` (42_responder R171). -/
  | replies (frames : List (List Byte)) (log : Option LogEntry)
  deriving DecidableEq, Repr

/-- The state: the spec's `(slot[0 .. N_SLOTS-1], trace)` (10_state R20), the constant configuration, and
the model's own view of the environment (`answers`, `draws`, `pending`), of an instruction tried by itself (`call`)
and of the last result. -/
structure State where
  /-- The configuration record (00_scope R7), a constant: no operation writes it (R9; log entry 1). -/
  cfg     : Config
  /-- The connection registry (10_state R20, 43_broadcast_paths R200); its length is `N_SLOTS`. -/
  slots   : List Slot
  /-- The output trace, oldest action first (10_state R30). -/
  trace   : List Action
  /-- MODEL'S OWN: the oracle's next answers (10_state R35), oldest first (log entry 6). -/
  answers : List Bool
  /-- MODEL'S OWN: how many answers have been drawn; the index of the next free one (log entry 6). -/
  draws   : Nat
  /-- MODEL'S OWN: the operations the environment delivers next, first first (10_state R31, R32; log entry 7). -/
  pending : List (List Byte)
  /-- MODEL'S OWN: one instruction to run by itself, before anything delivered: how the host tries an instruction
  that no environment can deliver. Nothing at reset, and no step puts anything there (log entry 9). -/
  call    : Option Delivery
  /-- MODEL'S OWN: what the last operation returned (log entry 11). -/
  result  : Result
  deriving DecidableEq, Repr

/-- The block never faults: "No error in this core is escalated to a process-level fault"
(60_exceptions R250, R269). No operation raises one; the type is empty, which is the spec's own claim. -/
inductive Fault
  deriving DecidableEq, Repr

/-- Why the model gives an input no meaning (60_exceptions R269): each marks the run refused and errs
towards unprovable. -/
inductive Refusal where
  /-- An arm of `exec` without a meaning raises it; safe. No arm does. -/
  | notModelled (mnemonic : String)
  /-- EV_BYTES, EV_CLOSED (43_broadcast_paths R216) and the internal operations on a slot
  (log entry 17) raise it for an id `>= N_SLOTS`; safe. -/
  | badConnectionId (c : Nat)
  /-- CHECKSUM raises it for a list of fewer than 13 bytes (41_codec R130, D38); safe. -/
  | checksumShortInput (length : Nat)
  /-- `step` raises it in every state whose configuration breaks 00_scope R8; safe. -/
  | badConfiguration
  /-- `step` raises it for a delivery that is no instruction the environment may hand in: an unknown tcode
  (30_encoding R88, D33), an internal operation (10_state R32) or bytes that are no encoding (log entry 8); safe. -/
  | undecodable (why : Reject)
  deriving DecidableEq, Repr

/-- The parser after reset (10_state R38). The buffer is unspecified and never observable (70_reset
R281): all zeros, DESIGN CHOICE (log entry 12). -/
def Parser.reset : Parser where
  st  := .wait
  idx := 0
  buf := Vector.replicate 16 0#8

/-- A slot after power-on (10_state R38). -/
def Slot.reset : Slot where
  active := false
  parser := Parser.reset

/-- The power-on state of a block with `n` slots under a configuration (70_reset R280). -/
def State.powerOn (c : Config) (n : Nat) : State where
  cfg     := c
  slots   := List.replicate n Slot.reset
  trace   := []
  answers := []
  draws   := 0
  pending := []
  call    := none
  result  := .nothing

/-- The machine right after reset, with the reset configuration (log entry 2) and two slots (log entry 3,
DESIGN CHOICE). -/
def State.reset : State := State.powerOn Config.default 2

end Sys2Proof.Machine
end

