-- ==== Sys2Proof/Machine/Operands.lean ====
section
/-! DEFINITION. Operand assembly: identifier packing (30_encoding R76 to R78), the data field (R79), the
checksum (R74), and the codec built from them (41_codec R133, R134, R136). Pure: no state (41_codec R137). -/

namespace Sys2Proof.Machine

/-! ## Identifier (30_encoding R76 to R78) -/

/-- Put bit `k`, `k + 1`, … of `v` at the places listed. -/
def scatter {n : Nat} (v : BitVec n) : Nat → List Nat → BitVec 16
  | _, [] => 0#16
  | k, p :: ps => (if v.getLsbD k then BitVec.twoPow 16 p else 0#16) ||| scatter v (k + 1) ps

/-- Read bit `k`, `k + 1`, … from the places listed. -/
def gather (n : Nat) (w : BitVec 16) : Nat → List Nat → BitVec n
  | _, [] => 0#n
  | k, p :: ps => (if w.getLsbD p then BitVec.twoPow n k else 0#n) ||| gather n w (k + 1) ps

/-- The word `b1:b2` of an upper half `id[28:16]` (R78 L3). -/
def packHi (p : IdPacking) (v : BitVec 13) : BitVec 16 :=
  match p with
  | .layout l => scatter v 0 l.hi
  | .table t => t.hi.getD v.toNat 0#16

/-- The word `b3:b4` of a lower half `id[15:0]` (R78 L3). -/
def packLo (p : IdPacking) (v : BitVec 16) : BitVec 16 :=
  match p with
  | .layout l => scatter v 0 l.lo
  | .table t => t.lo.getD v.toNat 0#16

/-- The identifier that four bytes unpack to, by their words `b1:b2` and `b3:b4`: bits at places a layout does
not use are ignored, and bytes a table packs no identifier to are looked up. -/
def unpackWords (p : IdPacking) (w1 w2 : BitVec 16) : Ident :=
  match p with
  | .layout l => gather 13 w1 0 l.hi ++ gather 16 w2 0 l.lo
  | .table t =>
    if t.hi.contains w1 && t.lo.contains w2 then
      BitVec.ofNat 13 (t.hi.idxOf w1) ++ BitVec.ofNat 16 (t.lo.idxOf w2)
    else (t.other.lookup (w1 ++ w2)).getD 0#29

/-- The upper byte of a 16-bit word. -/
def upperByte (w : BitVec 16) : Byte := w.extractLsb 15 8

/-- The lower byte of a 16-bit word. -/
def lowerByte (w : BitVec 16) : Byte := w.extractLsb 7 0

/-- `ID_PACK(id) = (b1, b2, b3, b4)` (41_codec R131). -/
def packIdent (p : IdPacking) (id : Ident) : Byte × Byte × Byte × Byte :=
  let w1 := packHi p (id.extractLsb 28 16)
  let w2 := packLo p (id.extractLsb 15 0)
  (upperByte w1, lowerByte w1, upperByte w2, lowerByte w2)

/-- `ID_UNPACK(b1, b2, b3, b4)` (41_codec R132). -/
def unpackIdent (p : IdPacking) (b1 b2 b3 b4 : Byte) : Ident := unpackWords p (b1 ++ b2) (b3 ++ b4)

/-! ## Checksum (30_encoding R74) -/

/-- The sum of bytes 1 to 12, exactly, then reduced modulo 256. -/
def cks (f : List Byte) : Byte := BitVec.ofNat 8 (((f.drop 1).take 12).map BitVec.toNat).sum

/-- `CHECKSUM(f)`, which has no meaning for a list of fewer than 13 bytes (41_codec R130). -/
def checksumOf (f : List Byte) : Option Byte := if f.length < 13 then none else some (cks f)

/-! ## Codec (41_codec R133, R134) -/

/-- The data field of a frame: `data[k]` for `k < min(dlc, 8)`, then zeros (30_encoding R79, 41_codec R141). -/
def dataField (m : CanMsg) : List Byte :=
  m.data.toList.take (min m.dlc 8) ++ List.replicate (8 - min m.dlc 8) 0#8

/-- Bytes 1 to 12 of an encoded frame: the identifier bytes and the data field. -/
def frameBody (p : IdPacking) (m : CanMsg) : List Byte :=
  let (b1, b2, b3, b4) := packIdent p m.id
  [b1, b2, b3, b4] ++ dataField m

/-- `ENCODE(m)` (41_codec R133): the frame with checksum byte 0, then byte 13 set to its checksum. -/
def encodeMsg (c : Config) (m : CanMsg) : List Byte :=
  let f := [c.startMarker] ++ frameBody c.packing m ++ [0#8] ++ [c.endMarker]
  f.set 13 (cks f)

/-- The message a 15-byte frame carries: its identifier, `dlc = 8`, and bytes 5 to 12 verbatim. -/
def messageOf (p : IdPacking) (f : List Byte) : CanMsg where
  id   := unpackIdent p (byteAt f 1) (byteAt f 2) (byteAt f 3) (byteAt f 4)
  dlc  := 8
  data := #v[byteAt f 5, byteAt f 6, byteAt f 7, byteAt f 8, byteAt f 9, byteAt f 10, byteAt f 11, byteAt f 12]

/-- `DECODE(f)` (41_codec R134): lenient, it reads bytes 1 to 12 only. -/
def decodeMsg (p : IdPacking) (f : List Byte) : DecodeResult :=
  if f.length ≠ 15 then .fail .badLength else .ok (messageOf p f)

/-- `DECODE_STRICT(f)` (41_codec R136): the first check that fails, else what `DECODE` gives. -/
def decodeStrictMsg (c : Config) (f : List Byte) : DecodeResult :=
  if f.length ≠ 15 then .fail .badLength
  else if byteAt f 0 ≠ c.startMarker then .fail .badStart
  else if byteAt f 14 ≠ c.endMarker then .fail .badEnd
  else if byteAt f 13 ≠ cks f then .fail .badChecksum
  else decodeMsg c.packing f

end Sys2Proof.Machine
end

