-- ==== Sys2Proof/Machine/Flags.lean ====
section
/-! DEFINITION. The 1-bit results of 10_state R33, outputs only and never stored: `ready` of `PARSE_BYTE`
(40_parser R100) and `ok` of `VALIDATE` (41_codec R135), and the parser's overflow test. -/

namespace Sys2Proof.Machine

/-- A length at which a frame may end: 5, 13 or 15 (00_scope R7 `FRAME_LENGTHS`). -/
def terminalLength (n : Nat) : Bool := n == 5 || n == 13 || n == 15

/-- The length-and-terminator match after a byte `b` was appended and the index became `idx`
(40_parser R100): the `ready` flag. -/
def frameReady (c : Config) (idx : Nat) (b : Byte) : Bool := terminalLength idx && b == c.endMarker

/-- The overflow test after an append that completed no frame (40_parser R100, R103). -/
def overflowed (idx : Nat) : Bool := 15 < idx

/-- `VALIDATE(f)` (41_codec R135). -/
def validateFrame (c : Config) (f : List Byte) : Bool :=
  f.length == 15 && byteAt f 0 == c.startMarker && byteAt f 14 == c.endMarker && byteAt f 13 == cks f

end Sys2Proof.Machine
end

