-- ==== Sys2Proof/Machine/Ops.lean ====
section
/-! DEFINITION. The named operations over the state: slots, trace, oracle, deliveries, the parser
(40_parser R100, R111), the responder table (42_responder R171), the registry and the broadcaster
(43_broadcast_paths R201, R202, R214) and the client-receive path (R207 to R212). There is no addressable
memory (20_memory R50) and no trap: nothing is saved, no vector exists and nothing returns from one
(60_exceptions R250, R262), so no operation here takes an exception. -/

namespace Sys2Proof.Machine

/-! ## Accessors and updates -/

/-- `N_SLOTS` (00_scope R7): the length of the registry, which no operation changes. -/
def State.nSlots (s : State) : Nat := s.slots.length

/-- The constraints of 00_scope R8, `N_SLOTS >= 1` among them. -/
def State.configOk (s : State) : Bool := s.cfg.ok && 1 ≤ s.nSlots

/-- `slot[i] <- sl`; nothing for an id that names no slot. -/
def State.setSlot (i : Nat) (sl : Slot) (s : State) : State := { s with slots := s.slots.set i sl }

/-- Change slot `i` by `g`; nothing for an id that names no slot. -/
def State.modifySlot (i : Nat) (g : Slot → Slot) (s : State) : State := { s with slots := s.slots.modify i g }

/-- `emit a` (00_scope R12, 10_state R30). -/
def State.emit (a : Action) (s : State) : State := { s with trace := s.trace ++ [a] }

/-- `return v` (00_scope R12). -/
def State.setResult (r : Result) (s : State) : State := { s with result := r }

/-- The answer the environment gives to the next question (10_state R35): the next one listed, else a free
value (log entry 6). -/
def State.nextAnswer (s : State) : Bool := s.answers.headD (Config.freeAnswer s.draws)

/-- The state after a question was asked: asked afresh, the next one may be answered otherwise. -/
def State.afterDraw (s : State) : State := { s with answers := s.answers.tail, draws := s.draws + 1 }

/-- The state with its first delivery taken out. -/
def State.popPending (s : State) : State := { s with pending := s.pending.tail }

/-- The state with the instruction tried by itself taken out. -/
def State.clearCall (s : State) : State := { s with call := none }

/-- Is slot `i` active? False for an id that names no slot. -/
def State.isActive (s : State) (i : Nat) : Bool :=
  match s.slots[i]? with
  | some sl => sl.active
  | none => false

/-! ## Parser (40_parser) -/

/-- `RESET_PARSER` on a parser (40_parser R111): the buffer stays as it is. -/
def Parser.clear (p : Parser) : Parser := { p with st := .wait, idx := 0 }

/-- `PARSE_BYTE` on a parser (40_parser R100): the parser after it, and the completed frame, a copy
(R110), when `ready`. The "already full" branch is kept (R102). -/
def Parser.feed (c : Config) (p : Parser) (b : Byte) : Parser × Option (List Byte) :=
  match p.st with
  | .wait =>
    if b = c.startMarker then ({ st := .collecting, idx := 1, buf := p.buf.set 0 b }, none) else (p, none)
  | .collecting =>
    if h : p.idx < Config.bufCap then
      let buf := p.buf.set p.idx b h
      let idx := p.idx + 1
      if frameReady c idx b then ({ st := .wait, idx := idx, buf := buf }, some (buf.toList.take idx))
      else if overflowed idx then ({ st := .wait, idx := idx, buf := buf }, none)
      else ({ st := .collecting, idx := idx, buf := buf }, none)
    else ({ p with st := .wait }, none)

/-- `RESET_PARSER` on a slot. -/
def Slot.resetParser (sl : Slot) : Slot := { sl with parser := sl.parser.clear }

/-- `DEACTIVATE` on a slot (43_broadcast_paths R214). -/
def Slot.deactivated (sl : Slot) : Slot := { active := false, parser := sl.parser.clear }

/-- Assignment of a slot (43_broadcast_paths R201): active, parser reset. -/
def Slot.assigned (sl : Slot) : Slot := { active := true, parser := sl.parser.clear }

/-- `RESET_PARSER(i)` (40_parser R111). -/
def State.resetParser (i : Nat) (s : State) : State := s.modifySlot i Slot.resetParser

/-- `DEACTIVATE(i)` (43_broadcast_paths R214). -/
def State.deactivate (i : Nat) (s : State) : State := s.modifySlot i Slot.deactivated

/-- `PARSE_BYTE(i, b)` (40_parser R100): the state after it and the completed frame, if any. -/
def State.parseByte (i : Nat) (b : Byte) (s : State) : State × Option (List Byte) :=
  match s.slots[i]? with
  | none => (s, none)
  | some sl => (s.setSlot i { sl with parser := (sl.parser.feed s.cfg b).1 }, (sl.parser.feed s.cfg b).2)

/-! ## Registry (43_broadcast_paths R201) -/

/-- The least index of an inactive slot. -/
def State.freeSlot (s : State) : Option Nat := s.slots.findIdx? (fun sl => !sl.active)

/-! ## Broadcaster (43_broadcast_paths R202 to R205) -/

/-- One active, connected slot is written (R202) and, if the write fails, deactivated at once (R203). -/
def State.writeSlot (f : List Byte) (i : Nat) (s : State) : State :=
  let s' := s.afterDraw.emit (.write i f s.nextAnswer)
  if s.nextAnswer then s' else s'.deactivate i

/-- One turn of the broadcast loop (R202): an inactive slot is passed over without a question; an active
slot whose transport is not connected is skipped with no change (R204). -/
def State.broadcastSlot (f : List Byte) (s : State) (i : Nat) : State :=
  if s.isActive i then
    if s.nextAnswer then s.afterDraw.writeSlot f i else s.afterDraw
  else s

/-- `BROADCAST(f)` (R202): every slot in ascending order. -/
def State.broadcast (f : List Byte) (s : State) : State :=
  (List.range s.nSlots).foldl (State.broadcastSlot f) s

/-- Broadcasts in order, each complete before the next (43_broadcast_paths R210). -/
def State.broadcastAll (fs : List (List Byte)) (s : State) : State :=
  fs.foldl (fun s f => s.broadcast f) s

/-! ## Responder (42_responder R171) -/

/-- `RESPOND(f) = (replies, log)`: the table of 42_responder R171. -/
def respondTo (c : Config) (f : List Byte) : List (List Byte) × Option LogEntry :=
  if f.length = 5 ∧ byteAt f 1 = c.gatewayAddr then
    if byteAt f 2 = Config.selHw then ([c.cannedHw], none)
    else if byteAt f 2 = c.selFw then ([c.cannedFw], none)
    else if byteAt f 2 = Config.selDesc then ([c.cannedDesc1, c.cannedDesc2], none)
    else if byteAt f 2 = c.selVolt then ([c.cannedVolt], none)
    else ([], some (.unknownCommand (byteAt f 2)))
  else ([], none)

/-! ## Client-receive path (43_broadcast_paths R207 to R212) -/

/-- Emit a log entry, if there is one. -/
def State.emitLog (l : Option LogEntry) (s : State) : State :=
  match l with
  | some e => s.emit (.log e)
  | none => s

/-- `SYSQ_PATH(f)` (R210): the log entry, then the replies. -/
def State.sysqPath (f : List Byte) (s : State) : State :=
  (s.emitLog (respondTo s.cfg f).2).broadcastAll (respondTo s.cfg f).1

/-- Transmit a message and log a failure (R209): no retry, no requeue. -/
def State.transmit (m : CanMsg) (s : State) : State :=
  let s' := s.afterDraw.emit (.transmit m s.nextAnswer)
  if s.nextAnswer then s' else s'.emit (.log (.txFail m.id))

/-- `CAN_FRAME_PATH(f)` (R209): lenient decode, which cannot fail at length 15, then transmit. -/
def State.canFramePath (f : List Byte) (s : State) : State :=
  match decodeMsg s.cfg.packing f with
  | .ok m => s.transmit m
  | .fail _ => s

/-- The whole treatment of a 15-byte client frame (R208): the display is told first. -/
def State.canFrame (f : List Byte) (s : State) : State :=
  (s.emit (.notify .netToBus f)).canFramePath f

/-- A frame of a shape the block does not recognise (R211, R212): logged, nothing else. -/
def State.logShape (length : Nat) (node : Byte) (s : State) : State :=
  s.emit (.log (.unrecognizedShape length node))

/-- `CLIENT_FRAME(c, f)` (R208); `c` is read by no branch. -/
def State.clientFrame (f : List Byte) (s : State) : State :=
  if f.length = 15 then s.canFrame f
  else if f.length = 5 ∧ byteAt f 1 = s.cfg.gatewayAddr then s.sysqPath f
  else if f.length = 13 then s.logShape 13 (byteAt f 1)
  else s.logShape 5 (byteAt f 1)

/-- One byte of `EV_BYTES` (R207): parsed, and a frame it completes is dispatched before the next byte. -/
def State.receiveByte (k : Nat) (s : State) (b : Byte) : State :=
  if s.isActive k then
    match s.parseByte k b with
    | (s', some f) => s'.clientFrame f
    | (s', none) => s'
  else s

/-- The bytes of `EV_BYTES` (R207), in order; those met while slot `k` is inactive are discarded (R215). -/
def State.receiveBytes (k : Nat) (bytes : List Byte) (s : State) : State :=
  bytes.foldl (State.receiveByte k) s

/-! ## How an operation ends -/

/-- The outcome of an instruction on this machine. -/
abbrev Answer := Host.Outcome State Fault Refusal

/-- The operation went through and returned `r`. -/
def State.returning (r : Result) (s : State) : Answer := .next (s.setResult r)

/-- Only for an id that names a slot; any other is refused (43_broadcast_paths R216; log entry 17). -/
def State.onSlot (i : Nat) (s : State) (a : Answer) : Answer :=
  if i < s.nSlots then a else .refused (.badConnectionId i)

/-! ## Reset and fetch -/

/-- A restart (70_reset R282): power-on reset of the block under the same configuration. What the
environment will do next is its own and stays. -/
def State.restart (s : State) : State :=
  { s with slots := List.replicate s.nSlots Slot.reset, trace := [], result := .nothing }

/-- What `step` finds to do. -/
inductive Fetched where
  /-- Nothing is delivered: the block is idle (60_exceptions R268). -/
  | idle
  /-- An instruction, and the state with it taken out of where it stood. -/
  | run (i : Instr) (s : State)
  /-- Bytes that are no instruction, or none that may be handed in. -/
  | bad (why : Reject)
  /-- The configuration breaks 00_scope R8. -/
  | badConfig

/-- What there is to run: an instruction tried by itself, else the next delivery, which must be one the environment
may hand in. A configuration that breaks 00_scope R8 is refused, whatever is delivered. -/
def State.fetch (s : State) : Fetched :=
  match s.call with
  | some d =>
    if s.configOk then
      match decode s.cfg d with
      | .ok i => .run i s.clearCall
      | .error e => .bad e
    else .badConfig
  | none =>
    match s.pending with
    | [] => if s.configOk then .idle else .badConfig
    | bs :: _ =>
      if s.configOk then
        match decodeInput bs with
        | .ok i => .run i s.popPending
        | .error e => .bad e
      else .badConfig

/-- The state with the instruction of an opcode-table word to run by itself. -/
def State.callWord (s : State) (nbits w : Nat) : State := { s with call := some (tableDelivery nbits w) }

end Sys2Proof.Machine
end

