-- ==== Sys2Proof/Machine/Codec.lean ====
section
/-! DEFINITION. The codec ports of 10_state R32 (41_codec R130 to R136): each reads the configuration only,
writes nothing but the result, and emits nothing (41_codec R137). -/

namespace Sys2Proof.Machine

/-- `CHECKSUM(f)` (41_codec R130); a list of fewer than 13 bytes is refused. -/
def execChecksum (f : List Byte) (s : State) : Answer :=
  match checksumOf f with
  | some b => s.returning (.checksum b)
  | none => .refused (.checksumShortInput f.length)

/-- `ID_PACK(id)` (41_codec R131). -/
def execIdPack (id : Ident) (s : State) : Answer :=
  let (b1, b2, b3, b4) := packIdent s.cfg.packing id
  s.returning (.idBytes b1 b2 b3 b4)

/-- `ID_UNPACK(b1, b2, b3, b4)` (41_codec R132). -/
def execIdUnpack (b1 b2 b3 b4 : Byte) (s : State) : Answer :=
  s.returning (.ident (unpackIdent s.cfg.packing b1 b2 b3 b4))

/-- `ENCODE(m)` (41_codec R133). -/
def execEncode (m : CanMsg) (s : State) : Answer := s.returning (.frame (encodeMsg s.cfg m))

/-- `DECODE(f)` (41_codec R134). -/
def execDecode (f : List Byte) (s : State) : Answer := s.returning (.decoded (decodeMsg s.cfg.packing f))

/-- `VALIDATE(f)` (41_codec R135). -/
def execValidate (f : List Byte) (s : State) : Answer := s.returning (.valid (validateFrame s.cfg f))

/-- `DECODE_STRICT(f)` (41_codec R136). -/
def execDecodeStrict (f : List Byte) (s : State) : Answer := s.returning (.decoded (decodeStrictMsg s.cfg f))

end Sys2Proof.Machine
end

