-- ==== Sys2Proof/Machine/Events.lean ====
section
/-! DEFINITION. The four events of 10_state R31, each one atomic transaction (00_scope R6). -/

namespace Sys2Proof.Machine

/-- `EV_CONNECT` (43_broadcast_paths R201): the least free slot is assigned, or the client is rejected with
a log entry. -/
def execEvConnect (s : State) : Answer :=
  match s.freeSlot with
  | some i => (s.modifySlot i Slot.assigned).returning (.assigned i)
  | none => (s.emit (.log .registryFull)).returning .rejected

/-- `EV_BYTES(c, bytes)` (43_broadcast_paths R207). -/
def execEvBytes (k : Nat) (bytes : List Byte) (s : State) : Answer :=
  s.onSlot k ((s.receiveBytes k bytes).returning .nothing)

/-- `EV_CLOSED(c)` (43_broadcast_paths R213): an active slot is deactivated, an inactive one is not touched. -/
def execEvClosed (k : Nat) (s : State) : Answer :=
  s.onSlot k ((if s.isActive k then s.deactivate k else s).returning .nothing)

/-- `EV_CAN_RX(m)` (43_broadcast_paths R206): encode, notify, broadcast; nothing is transmitted. -/
def execEvCanRx (m : CanMsg) (s : State) : Answer :=
  ((s.emit (.notify .busToNet (encodeMsg s.cfg m))).broadcast (encodeMsg s.cfg m)).returning .nothing

end Sys2Proof.Machine
end

