-- ==== Sys2Proof/Machine/Frames.lean ====
section
/-! DEFINITION. The eight frame kinds of 30_encoding R82: what the client-receive path does with a completed
frame of the kind (43_broadcast_paths R208). The frame is put together from the kind's fixed bytes and its
fields, so a kind and the frame it stands for take the one path. -/

namespace Sys2Proof.Machine

/-- `CAN_FRAME` (43_broadcast_paths R208, R209): notify, decode leniently, transmit, log a failure. -/
def execCanFrame (id1 id2 id3 id4 : Byte) (d : Vector Byte 8) (ck : Byte) (s : State) : Answer :=
  (s.canFrame (frame15 s.cfg id1 id2 id3 id4 d ck)).returning .nothing

/-- `SYSQ_HW_TYPE` (42_responder R172): broadcast `CANNED_HW`. -/
def execSysqHwType (param : Byte) (s : State) : Answer :=
  (s.sysqPath (frame5 s.cfg s.cfg.gatewayAddr Config.selHw param)).returning .nothing

/-- `SYSQ_FW_TYPE` (42_responder R173): broadcast `CANNED_FW`. -/
def execSysqFwType (param : Byte) (s : State) : Answer :=
  (s.sysqPath (frame5 s.cfg s.cfg.gatewayAddr s.cfg.selFw param)).returning .nothing

/-- `SYSQ_DESCRIPTION` (42_responder R174): broadcast `CANNED_DESC1` to completion, then `CANNED_DESC2`. -/
def execSysqDescription (param : Byte) (s : State) : Answer :=
  (s.sysqPath (frame5 s.cfg s.cfg.gatewayAddr Config.selDesc param)).returning .nothing

/-- `SYSQ_SUPPLY_VOLTAGE` (42_responder R175): broadcast `CANNED_VOLT`. -/
def execSysqSupplyVoltage (param : Byte) (s : State) : Answer :=
  (s.sysqPath (frame5 s.cfg s.cfg.gatewayAddr s.cfg.selVolt param)).returning .nothing

/-- `SYSQ_UNKNOWN` (42_responder R176): the log entry, no reply. -/
def execSysqUnknown (selector param : Byte) (s : State) : Answer :=
  (s.sysqPath (frame5 s.cfg s.cfg.gatewayAddr selector param)).returning .nothing

/-- `SHORT_UNRECOGNIZED` (43_broadcast_paths R212): logged with its length and byte 1, nothing else;
its other bytes are read by no rule (30_encoding R84). -/
def execShortUnrecognized (node _cmd _param : Byte) (s : State) : Answer :=
  (s.logShape 5 node).returning .nothing

/-- `RESERVED_F13` (43_broadcast_paths R211): logged with its length and byte 1, nothing else. -/
def execReservedF13 (body : Vector Byte 11) (s : State) : Answer :=
  (s.logShape 13 body[0]).returning .nothing

end Sys2Proof.Machine
end

