-- ==== Sys2Proof/Machine/Internal.lean ====
section
/-! DEFINITION. The operations with the codes 0x20 to 0x25 of 30_encoding R88: those the events run
internally (10_state R32), and `RESPOND`, also a stateless port. A slot id outside the registry is refused
(log entry 17). -/

namespace Sys2Proof.Machine

/-- `PARSE_BYTE(i, b)` (40_parser R100): `ready` and the completed frame are returned. -/
def execParseByte (i : Nat) (b : Byte) (s : State) : Answer :=
  s.onSlot i
    ((s.parseByte i b).1.returning (.parsed (s.parseByte i b).2.isSome ((s.parseByte i b).2.getD [])))

/-- `RESET_PARSER(i)` (40_parser R111). -/
def execResetParser (i : Nat) (s : State) : Answer := s.onSlot i ((s.resetParser i).returning .nothing)

/-- `RESPOND(f)` (42_responder R171): the replies and the log entry are returned, not emitted. -/
def execRespond (f : List Byte) (s : State) : Answer :=
  s.returning (.replies (respondTo s.cfg f).1 (respondTo s.cfg f).2)

/-- `BROADCAST(f)` (43_broadcast_paths R202). -/
def execBroadcast (f : List Byte) (s : State) : Answer := (s.broadcast f).returning .nothing

/-- `CLIENT_FRAME(c, f)` (43_broadcast_paths R208): no branch reads `c`. -/
def execClientFrame (_k : Nat) (f : WireFrame) (s : State) : Answer := (s.clientFrame f.bytes).returning .nothing

/-- `DEACTIVATE(i)` (43_broadcast_paths R214). -/
def execDeactivate (i : Nat) (s : State) : Answer := s.onSlot i ((s.deactivate i).returning .nothing)

end Sys2Proof.Machine
end

