-- ==== Sys2Proof/Machine/Dispatch.lean ====
section
/-! DEFINITION. One arm per instruction: a direct call of its meaning. -/

namespace Sys2Proof.Machine

/-- What an instruction does (10_state R31, R32; 30_encoding R82, R88). -/
def exec (i : Instr) (s : State) : Host.Outcome State Fault Refusal :=
  match i with
  | .canFrame id1 id2 id3 id4 d ck => Sys2Proof.Machine.execCanFrame id1 id2 id3 id4 d ck s
  | .sysqHwType param => Sys2Proof.Machine.execSysqHwType param s
  | .sysqFwType param => Sys2Proof.Machine.execSysqFwType param s
  | .sysqDescription param => Sys2Proof.Machine.execSysqDescription param s
  | .sysqSupplyVoltage param => Sys2Proof.Machine.execSysqSupplyVoltage param s
  | .sysqUnknown selector param => Sys2Proof.Machine.execSysqUnknown selector param s
  | .shortUnrecognized node cmd param => Sys2Proof.Machine.execShortUnrecognized node cmd param s
  | .reservedF13 body => Sys2Proof.Machine.execReservedF13 body s
  | .evConnect => Sys2Proof.Machine.execEvConnect s
  | .evBytes k bytes => Sys2Proof.Machine.execEvBytes k bytes s
  | .evClosed k => Sys2Proof.Machine.execEvClosed k s
  | .evCanRx m => Sys2Proof.Machine.execEvCanRx m s
  | .checksum f => Sys2Proof.Machine.execChecksum f s
  | .idPack id => Sys2Proof.Machine.execIdPack id s
  | .idUnpack b1 b2 b3 b4 => Sys2Proof.Machine.execIdUnpack b1 b2 b3 b4 s
  | .encode m => Sys2Proof.Machine.execEncode m s
  | .decode f => Sys2Proof.Machine.execDecode f s
  | .validate f => Sys2Proof.Machine.execValidate f s
  | .decodeStrict f => Sys2Proof.Machine.execDecodeStrict f s
  | .parseByte n b => Sys2Proof.Machine.execParseByte n b s
  | .resetParser n => Sys2Proof.Machine.execResetParser n s
  | .respond f => Sys2Proof.Machine.execRespond f s
  | .broadcast f => Sys2Proof.Machine.execBroadcast f s
  | .clientFrame k f => Sys2Proof.Machine.execClientFrame k f s
  | .deactivate n => Sys2Proof.Machine.execDeactivate n s

end Sys2Proof.Machine
end

