-- ==== Sys2Proof/Machine/Step.lean ====
section
/-! DEFINITION. One step: the next delivery is decoded and runs to completion as one atomic transaction
(00_scope R6, 60_exceptions R260); with nothing delivered the block is idle with its state kept (R268). A
configuration that breaks 00_scope R8 and bytes that are no instruction are refused (60_exceptions R269). -/

namespace Sys2Proof.Machine

/-- The step function. -/
def step (s : State) : Host.Outcome State Fault Refusal :=
  match s.fetch with
  | .idle => .next s
  | .run i s' => exec i s'
  | .bad why => .refused (.undecodable why)
  | .badConfig => .refused .badConfiguration

/-- `s` with the instruction of an opcode-table word where `step` looks first (log entries 7 and 9). -/
def State.withFetchWord (s : State) (nbits w : Nat) : State := s.callWord nbits w

end Sys2Proof.Machine
end

