-- ==== Sys2Proof/Safety.lean ====
section
/-! DEFINITION. The terms claims are made in: the invariants of 10_state R37, the observable part of a state
(70_reset R281), the parser fed a list of bytes, and a slot-by-slot description of the broadcaster. A run is
safe when every state of it meets `State.Inv`; there is no fault to avoid (60_exceptions R269). -/

namespace Sys2Proof.Machine

/-! ## Invariants (10_state R23, R37) -/

/-- 10_state R37(a) and the range of the fill index (R23), of one parser. -/
def Parser.Ok (c : Config) (p : Parser) : Prop :=
  p.idx ≤ 16 ∧ (p.st = .collecting → 1 ≤ p.idx ∧ p.idx ≤ 15 ∧ p.buf[0] = c.startMarker)

/-- 10_state R37(a) of every slot. -/
def State.ParsersOk (s : State) : Prop := ∀ sl ∈ s.slots, sl.parser.Ok s.cfg

/-- 10_state R37(b): an inactive slot's parser is in `WAIT`. -/
def State.InactiveWait (s : State) : Prop := ∀ sl ∈ s.slots, sl.active = false → sl.parser.st = .wait

/-- Both invariants of 10_state R37 in a state with no instruction to try by itself (log entry 9), which is every
state that events lead to: part (b) rests on R32, by which `PARSE_BYTE` is reached only through an event. -/
def State.Inv (s : State) : Prop := s.ParsersOk ∧ s.InactiveWait ∧ s.call = none

/-- The states a run can reach, of any block: from power-on, by steps, by restarts (70_reset R282), and by what the
environment does between them, which is to choose any deliveries and any answers (10_state R31, R32, R35). -/
inductive State.Reachable : State → Prop
  | powerOn (c : Config) (n : Nat) : State.Reachable (State.powerOn c n)
  | environment (s : State) (deliveries : List (List Byte)) (answers : List Bool) :
      State.Reachable s → State.Reachable { s with pending := deliveries, answers := answers }
  | step (s t : State) : State.Reachable s → Machine.step s = .next t → State.Reachable t
  | restart (s : State) : State.Reachable s → State.Reachable s.restart

/-- What a step finds to run: nothing, or what it decodes to. -/
def State.found (s : State) : Option (Except Reject Instr) :=
  match s.call with
  | some d => some (decode s.cfg d)
  | none => s.pending.head?.map decodeInput

/-! ## What can be observed (10_state R23, R30; 70_reset R281) -/

/-- Two parsers that differ only in what no rule reads: the index and the buffer in `WAIT`, and buffer bytes
at or beyond the index in `COLLECTING`. -/
def Parser.Agree (p q : Parser) : Prop :=
  p.st = q.st ∧ (p.st = .collecting → p.idx = q.idx ∧ p.buf.toList.take p.idx = q.buf.toList.take q.idx)

/-- Two slots with the same liveness whose parsers agree. -/
def Slot.Agree (a b : Slot) : Prop := a.active = b.active ∧ a.parser.Agree b.parser

/-- Two states that differ only in parser contents no rule reads. -/
def State.Agree (s t : State) : Prop :=
  s.cfg = t.cfg ∧ List.Forall₂ Slot.Agree s.slots t.slots ∧ s.trace = t.trace ∧ s.answers = t.answers
    ∧ s.draws = t.draws ∧ s.pending = t.pending ∧ s.call = t.call ∧ s.result = t.result

/-- Two outcomes that cannot be told apart: the same kind of outcome, agreeing states, the same reason. -/
def Answer.Agree : Answer → Answer → Prop
  | .next s, .next t => s.Agree t
  | .refused r, .refused q => r = q
  | .fault r, .fault q => r = q
  | _, _ => False

/-! ## A parser fed a list of bytes (40_parser R105) -/

/-- The parser after the bytes, and what it reported at each. -/
def Parser.feedList (c : Config) (p : Parser) : List Byte → Parser × List (Option (List Byte))
  | [] => (p, [])
  | b :: bs =>
    ((Parser.feedList c (p.feed c b).1 bs).1, (p.feed c b).2 :: (Parser.feedList c (p.feed c b).1 bs).2)

/-! ## The broadcaster, slot by slot (43_broadcast_paths R202 to R204) -/

/-- The environment's `n`-th answer from this state on (10_state R35). -/
def State.answerAt (s : State) (n : Nat) : Bool := s.answers.getD n (Config.freeAnswer (s.draws + n))

/-- What a broadcast of `f` leaves of the slots from `i` on, which actions it issues, and how many answers it
has used, when `n` were used before and `ask k` is the `k`-th answer. -/
def broadcastSpec (f : List Byte) (ask : Nat → Bool) : Nat → Nat → List Slot → List Slot × List Action × Nat
  | _, n, [] => ([], [], n)
  | i, n, sl :: rest =>
    if sl.active then
      if ask n then
        let r := broadcastSpec f ask (i + 1) (n + 2) rest
        ((if ask (n + 1) then sl else sl.deactivated) :: r.1, .write i f (ask (n + 1)) :: r.2.1, r.2.2)
      else
        let r := broadcastSpec f ask (i + 1) (n + 1) rest
        (sl :: r.1, r.2.1, r.2.2)
    else
      let r := broadcastSpec f ask (i + 1) n rest
      (sl :: r.1, r.2.1, r.2.2)

/-- The state a broadcast of `f` leaves, said slot by slot. -/
def State.afterBroadcast (f : List Byte) (s : State) : State :=
  let r := broadcastSpec f s.answerAt 0 0 s.slots
  { s with slots := r.1, trace := s.trace ++ r.2.1, answers := s.answers.drop r.2.2, draws := s.draws + r.2.2 }

/-- The state a transmission of `m` leaves: the action with its result, and the log entry if it failed
(43_broadcast_paths R209). -/
def State.afterTransmit (m : CanMsg) (s : State) : State :=
  { s with
    trace := s.trace ++ [.transmit m (s.answerAt 0)] ++ (if s.answerAt 0 then [] else [.log (.txFail m.id)])
    answers := s.answers.drop 1
    draws := s.draws + 1 }

/-- The four events of 10_state R31. -/
def isEvent : Instr → Bool
  | .evConnect => true
  | .evBytes _ _ => true
  | .evClosed _ => true
  | .evCanRx _ => true
  | _ => false

/-- The instruction is an operation on slot `n`, one that a slot id outside the registry stops. -/
def namesSlot (i : Instr) (n : Nat) : Prop :=
  (∃ bytes, i = .evBytes n bytes) ∨ i = .evClosed n ∨ (∃ b, i = .parseByte n b) ∨ i = .resetParser n
    ∨ i = .deactivate n

/-- The codec ports of 10_state R32, and `RESPOND`. -/
def isPort : Instr → Bool
  | .checksum _ => true
  | .idPack _ => true
  | .idUnpack _ _ _ _ => true
  | .encode _ => true
  | .decode _ => true
  | .validate _ => true
  | .decodeStrict _ => true
  | .respond _ => true
  | _ => false

/-- The instructions that dispatch a frame to clients or to the bus and parse nothing: the frame kinds,
`EV_CAN_RX`, `BROADCAST` and `CLIENT_FRAME`. -/
def isDispatch : Instr → Bool
  | .canFrame _ _ _ _ _ _ => true
  | .sysqHwType _ => true
  | .sysqFwType _ => true
  | .sysqDescription _ => true
  | .sysqSupplyVoltage _ => true
  | .sysqUnknown _ _ => true
  | .shortUnrecognized _ _ _ => true
  | .reservedF13 _ => true
  | .evCanRx _ => true
  | .broadcast _ => true
  | .clientFrame _ _ => true
  | _ => false

/-! ## Premises the spec names (92_eei_decisions D7, 30_encoding R86) -/

/-- A canned frame whose checksum is valid. -/
def cannedChecksumOk (f : List Byte) : Prop := byteAt f 13 = cks f

/-- `CANNED_WF`: every canned frame's checksum is valid. -/
def CannedWf (c : Config) : Prop :=
  cannedChecksumOk c.cannedHw ∧ cannedChecksumOk c.cannedFw ∧ cannedChecksumOk c.cannedDesc1
    ∧ cannedChecksumOk c.cannedDesc2 ∧ cannedChecksumOk c.cannedVolt

/-- `CANNED_DESC_ASCII`: bytes 5 to 12 of the two description frames are ASCII. -/
def CannedDescAscii (c : Config) : Prop :=
  ∀ k, 5 ≤ k → k ≤ 12 → (byteAt c.cannedDesc1 k).toNat < 128 ∧ (byteAt c.cannedDesc2 k).toNat < 128

end Sys2Proof.Machine
end

