-- ==== Sys2Proof/Certificates/Slice0/Obligations.lean ====
section
/-! DEFINITION. The statements for the provers. Each is about every configuration, every environment and every
state, unless it says otherwise; a premise names the states it leaves out. -/

open Sys2Proof Sys2Proof.Machine

/-! ## Encoding and dispatch -/

/-- One step runs the instruction its first delivery decodes to, on the state with that delivery taken out
(10_state R31, 00_scope R6); an instruction tried by itself runs first, in the same way (log entry 9). -/
def Obligations.StepRunsDecodedInstruction : Prop :=
  ∀ (s : State) (i : Instr), s.configOk = true →
    (∀ bs rest, s.call = none → s.pending = bs :: rest → decodeInput bs = .ok i →
      step s = exec i { s with pending := rest }) ∧
    (∀ d, s.call = some d → decode s.cfg d = .ok i → step s = exec i { s with call := none })

/-- With nothing to run the state is kept; bytes that are no instruction, and a configuration that breaks
00_scope R8, are refused by name. -/
def Obligations.StepIdlesOrRefuses : Prop :=
  ∀ s : State, (s.configOk = true → s.call = none → s.pending = [] → step s = .next s) ∧
    (∀ bs rest e, s.configOk = true → s.call = none → s.pending = bs :: rest → decodeInput bs = .error e →
      step s = .refused (.undecodable e)) ∧
    (∀ d e, s.configOk = true → s.call = some d → decode s.cfg d = .error e →
      step s = .refused (.undecodable e)) ∧
    (s.configOk = false → step s = .refused .badConfiguration)

/-- 10_state R31, R32: of what decodes, the environment may deliver the four events and the eight ports; an internal
operation is refused by name, and no step leaves an instruction to be tried by itself. -/
def Obligations.OnlyEventsAndPortsMayBeDelivered : Prop :=
  ∀ s : State,
    (∀ bs rest i, s.configOk = true → s.call = none → s.pending = bs :: rest →
      decode s.cfg (.transaction bs) = .ok i →
      (isEvent i = true ∨ isPort i = true → step s = exec i { s with pending := rest }) ∧
      (isEvent i = false → isPort i = false →
        step s = .refused (.undecodable (.internalOnly (byteAt bs 0))))) ∧
    ∀ t, step s = .next t → t.call = none

/-- Decoding an encoded well-formed instruction gives it back, every operand at every value. -/
def Obligations.DecodeOfEncodeIsIdentity : Prop :=
  ∀ (c : Config) (i : Instr), c.ok = true → WellFormed c i = true → decode c (encode c i) = .ok i

/-- A wire frame has one reading: what it decodes to is well formed and is encoded by that very frame. -/
def Obligations.WireFrameHasOneReading : Prop :=
  ∀ (c : Config) (f : List Byte) (i : Instr), decode c (.wireFrame f) = .ok i →
    WellFormed c i = true ∧ encode c i = .wireFrame f

/-- Words written out decode to what they stand for: the frame layouts and the codes are the spec's (30_encoding R71
to R73, R88), the operand bytes of the last two words are the model's layout (log entry 8, DESIGN CHOICE), and the
parameter values are those of `Config.default` (log entry 2, PRESUMED). -/
def Obligations.WordsOfTheTableDecode : Prop :=
  decode Config.default (.wireFrame [0xAA, 0x10, 0x40, 0x50, 0xA5]) = .ok (.sysqHwType 0x50) ∧
  decode Config.default (.wireFrame [0xAA, 0x10, 0xE0, 0xF0, 0xA5]) = .ok (.sysqDescription 0xF0) ∧
  decode Config.default (.wireFrame [0xAA, 0x20, 0x40, 0x60, 0xA5]) = .ok (.shortUnrecognized 0x20 0x40 0x60) ∧
  decode Config.default (.wireFrame [0xAA, 0x30, 0x20, 0x12, 0x34, 1, 2, 3, 0, 0, 0, 0, 0, 0x9C, 0xA5]) =
    .ok (.canFrame 0x30 0x20 0x12 0x34 #v[1, 2, 3, 0, 0, 0, 0, 0] 0x9C) ∧
  decode Config.default (.transaction [0x01]) = .ok .evConnect ∧
  decode Config.default (.transaction [0x20, 1, 0xAA]) = .ok (.parseByte 1 0xAA) ∧
  decode Config.default (.transaction [0x12, 0x30, 0x2E, 0x12, 0x34]) = .ok (.idUnpack 0x30 0x2E 0x12 0x34)

/-- A code that is none of the seventeen of 30_encoding R88 is refused by name; none of the seventeen is. -/
def Obligations.OnlyTheSeventeenTcodesAreOperations : Prop :=
  ∀ (c : Config) (b : Byte) (bs : List Byte),
    decode c (.transaction (b :: bs)) = .error (.unknownTcode b) ↔
      b.toNat ∉ [0x01, 0x02, 0x03, 0x04, 0x10, 0x11, 0x12, 0x13, 0x14, 0x15, 0x16, 0x20, 0x21, 0x22, 0x23, 0x24, 0x25]

/-- 30_encoding R82: every wire frame is of exactly one kind, by the condition of its row. -/
def Obligations.EveryWireFrameHasTheKindOfItsRow : Prop :=
  ∀ (c : Config) (f : List Byte), c.ok = true → isWireFrame c f = true →
    ((∃ b1 b2 b3 b4 d k, decode c (.wireFrame f) = .ok (.canFrame b1 b2 b3 b4 d k)) ↔ f.length = 15) ∧
    ((∃ p, decode c (.wireFrame f) = .ok (.sysqHwType p)) ↔
      f.length = 5 ∧ byteAt f 1 = c.gatewayAddr ∧ byteAt f 2 = Config.selHw) ∧
    ((∃ p, decode c (.wireFrame f) = .ok (.sysqFwType p)) ↔
      f.length = 5 ∧ byteAt f 1 = c.gatewayAddr ∧ byteAt f 2 = c.selFw) ∧
    ((∃ p, decode c (.wireFrame f) = .ok (.sysqDescription p)) ↔
      f.length = 5 ∧ byteAt f 1 = c.gatewayAddr ∧ byteAt f 2 = Config.selDesc) ∧
    ((∃ p, decode c (.wireFrame f) = .ok (.sysqSupplyVoltage p)) ↔
      f.length = 5 ∧ byteAt f 1 = c.gatewayAddr ∧ byteAt f 2 = c.selVolt) ∧
    ((∃ sel p, decode c (.wireFrame f) = .ok (.sysqUnknown sel p)) ↔
      f.length = 5 ∧ byteAt f 1 = c.gatewayAddr ∧
        byteAt f 2 ∉ [Config.selHw, c.selFw, Config.selDesc, c.selVolt]) ∧
    ((∃ n k p, decode c (.wireFrame f) = .ok (.shortUnrecognized n k p)) ↔
      f.length = 5 ∧ byteAt f 1 ≠ c.gatewayAddr) ∧
    ((∃ body, decode c (.wireFrame f) = .ok (.reservedF13 body)) ↔ f.length = 13)

/-- The client-receive path does with a frame what its kind does (43_broadcast_paths R208). For 15 bytes this is the
model's reading (log entry 10, DEDUCED): the kind `CAN_FRAME` includes the `Notify` of that path. -/
def Obligations.ClientFrameRunsTheFramesKind : Prop :=
  ∀ (s : State) (k : Nat) (w : WireFrame) (i : Instr), decode s.cfg (.wireFrame w.bytes) = .ok i →
    exec (.clientFrame k w) s = exec i s

/-! ## Parser -/

/-- 40_parser R100, branch by branch: the result, the slot's parser, and nothing else. -/
def Obligations.ParseByteTransitions : Prop :=
  ∀ (s : State) (i : Nat) (b : Byte) (sl : Slot), s.slots[i]? = some sl →
    (sl.parser.st = .wait → b ≠ s.cfg.startMarker →
      exec (.parseByte i b) s = .next { s with result := .parsed false [] }) ∧
    (sl.parser.st = .wait → b = s.cfg.startMarker →
      exec (.parseByte i b) s = .next { s with
        slots := s.slots.set i { sl with parser := { st := .collecting, idx := 1, buf := sl.parser.buf.set 0 b } }
        result := .parsed false [] }) ∧
    (∀ h : sl.parser.idx < 16, sl.parser.st = .collecting →
      (sl.parser.idx + 1 = 5 ∨ sl.parser.idx + 1 = 13 ∨ sl.parser.idx + 1 = 15) ∧ b = s.cfg.endMarker →
      exec (.parseByte i b) s = .next { s with
        slots := s.slots.set i { sl with parser :=
          { st := .wait, idx := sl.parser.idx + 1, buf := sl.parser.buf.set sl.parser.idx b } }
        result := .parsed true (sl.parser.buf.toList.take sl.parser.idx ++ [b]) }) ∧
    (∀ h : sl.parser.idx < 16, sl.parser.st = .collecting →
      ¬ ((sl.parser.idx + 1 = 5 ∨ sl.parser.idx + 1 = 13 ∨ sl.parser.idx + 1 = 15) ∧ b = s.cfg.endMarker) →
      exec (.parseByte i b) s = .next { s with
        slots := s.slots.set i { sl with parser :=
          { st := if sl.parser.idx + 1 > 15 then .wait else .collecting
            idx := sl.parser.idx + 1, buf := sl.parser.buf.set sl.parser.idx b } }
        result := .parsed false [] }) ∧
    (16 ≤ sl.parser.idx → sl.parser.st = .collecting →
      exec (.parseByte i b) s = .next { s with
        slots := s.slots.set i { sl with parser := { sl.parser with st := .wait } }
        result := .parsed false [] })

/-- 40_parser R111: `st <- WAIT`, `idx <- 0`, the buffer and all else as they were. -/
def Obligations.ResetParserResult : Prop :=
  ∀ (s : State) (i : Nat) (sl : Slot), s.slots[i]? = some sl →
    exec (.resetParser i) s = .next { s with
      slots := s.slots.set i { sl with parser := { sl.parser with st := .wait, idx := 0 } }
      result := .nothing }

/-- 43_broadcast_paths R214: the slot is inactive, its parser reset, all else as it was. -/
def Obligations.DeactivateResult : Prop :=
  ∀ (s : State) (i : Nat) (sl : Slot), s.slots[i]? = some sl →
    exec (.deactivate i) s = .next { s with
      slots := s.slots.set i { active := false, parser := { sl.parser with st := .wait, idx := 0 } }
      result := .nothing }

/-- 40_parser R105: from `WAIT`, after a start marker, the least of 4, 12, 14 whose byte is the end marker ends
the frame, and the frame is what was fed; with none of them the parser is back in `WAIT` after 15 bytes. -/
def Obligations.FrameRecognition : Prop :=
  ∀ (c : Config) (p : Parser) (cs : List Byte), p.st = .wait → cs.length = 15 →
    (byteAt cs 3 = c.endMarker →
      (p.feedList c (c.startMarker :: cs.take 4)).2 =
        List.replicate 4 none ++ [some (c.startMarker :: cs.take 4)] ∧
      (p.feedList c (c.startMarker :: cs.take 4)).1.st = .wait) ∧
    (byteAt cs 3 ≠ c.endMarker → byteAt cs 11 = c.endMarker →
      (p.feedList c (c.startMarker :: cs.take 12)).2 =
        List.replicate 12 none ++ [some (c.startMarker :: cs.take 12)] ∧
      (p.feedList c (c.startMarker :: cs.take 12)).1.st = .wait) ∧
    (byteAt cs 3 ≠ c.endMarker → byteAt cs 11 ≠ c.endMarker → byteAt cs 13 = c.endMarker →
      (p.feedList c (c.startMarker :: cs.take 14)).2 =
        List.replicate 14 none ++ [some (c.startMarker :: cs.take 14)] ∧
      (p.feedList c (c.startMarker :: cs.take 14)).1.st = .wait) ∧
    (byteAt cs 3 ≠ c.endMarker → byteAt cs 11 ≠ c.endMarker → byteAt cs 13 ≠ c.endMarker →
      (p.feedList c (c.startMarker :: cs)).2 = List.replicate 16 none ∧
      (p.feedList c (c.startMarker :: cs)).1.st = .wait)

/-- 40_parser R106: bytes in `WAIT` that are no start marker change nothing and produce nothing, however many,
and what follows them is received as if they had not come: a valid 5-byte frame is the one frame completed. -/
def Obligations.NoiseIsDiscarded : Prop :=
  ∀ (s : State) (k : Nat) (sl : Slot) (noise more : List Byte), s.slots[k]? = some sl → sl.parser.st = .wait →
    (∀ b ∈ noise, b ≠ s.cfg.startMarker) →
    exec (.evBytes k noise) s = .next { s with result := .nothing } ∧
    exec (.evBytes k (noise ++ more)) s = exec (.evBytes k more) s ∧
    (isWireFrame s.cfg more = true → more.length = 5 →
      (sl.parser.feedList s.cfg (noise ++ more)).2.filterMap id = [more])

/-- 40_parser R109: a reported frame has a terminal length, begins with the start marker and ends with the end
marker. -/
def Obligations.ReportedFramesAreWireFrames : Prop :=
  ∀ (c : Config) (p : Parser) (b : Byte) (f : List Byte), p.Ok c → (p.feed c b).2 = some f →
    (f.length = 5 ∨ f.length = 13 ∨ f.length = 15) ∧ f.head? = some c.startMarker ∧ f.getLast? = some c.endMarker

/-! ## Invariants of every step -/

/-- 10_state R37(a) and the index range of R23 survive every step, whatever is delivered. -/
def Obligations.EveryStepKeepsParsersOk : Prop :=
  ∀ s t : State, s.ParsersOk → step s = .next t → t.ParsersOk

/-- 10_state R37, both parts, survives every step, whatever is delivered, and so does the absence of an instruction
to try by itself. -/
def Obligations.EveryStepKeepsRegistryInvariant : Prop :=
  ∀ s t : State, s.Inv → step s = .next t → t.Inv

/-- 10_state R37: every state a run can reach meets both invariants, whatever the environment delivers and answers. -/
def Obligations.ReachableStatesMeetInvariants : Prop :=
  ∀ s : State, s.Reachable → ∀ (i : Nat) (sl : Slot), s.slots[i]? = some sl →
    (sl.parser.st = .collecting → 1 ≤ sl.parser.idx ∧ sl.parser.idx ≤ 15 ∧ sl.parser.buf[0] = s.cfg.startMarker) ∧
    (sl.active = false → sl.parser.st = .wait)

/-- The invariants hold at power-on, under every configuration and capacity, and at reset. -/
def Obligations.PowerOnMeetsInvariant : Prop :=
  (∀ (c : Config) (n : Nat), (State.powerOn c n).Inv) ∧ State.reset.Inv

/-- 70_reset R280: power-on values, and a restart gives them back (R282). -/
def Obligations.PowerOnAndRestartValues : Prop :=
  (∀ (c : Config) (n : Nat), (State.powerOn c n).cfg = c ∧ (State.powerOn c n).nSlots = n ∧
    (State.powerOn c n).trace = [] ∧
    ∀ sl ∈ (State.powerOn c n).slots, sl.active = false ∧ sl.parser.st = .wait ∧ sl.parser.idx = 0) ∧
  (∀ s : State, s.restart.cfg = s.cfg ∧ s.restart.slots = (State.powerOn s.cfg s.nSlots).slots ∧ s.restart.trace = [])

/-- 00_scope R9 and 43_broadcast_paths R200: no step writes a parameter or changes the capacity. -/
def Obligations.ConfigurationNeverChanges : Prop :=
  ∀ s t : State, step s = .next t → t.cfg = s.cfg ∧ t.nSlots = s.nSlots

/-- 10_state R30: actions are appended; none that was issued is taken back or reordered. -/
def Obligations.TraceOnlyGrows : Prop :=
  ∀ s t : State, step s = .next t → ∃ as, t.trace = s.trace ++ as

/-- 70_reset R281, 10_state R23: what a parser holds that no rule reads is never observable. Two states that
differ only in it step alike, to states that differ only in it. -/
def Obligations.HiddenParserContentsAreUnobservable : Prop :=
  ∀ s t : State, s.Agree t → Answer.Agree (step s) (step t)

/-- 60_exceptions R269: the block never faults, and a step is refused exactly when the configuration breaks R8, or
what it finds does not decode, or it is an operation on a slot that does not exist, or `CHECKSUM` of fewer than 13
bytes, each with the reason that names it. That more than unknown codes does not decode is log entry 8's choice, and
that internal operations refuse such a slot id is log entry 17's. -/
def Obligations.StepStopsOnlyAsNamed : Prop :=
  ∀ s : State, (∀ r, step s ≠ .fault r) ∧ ∀ r, step s = .refused r ↔
    (s.configOk = false ∧ r = .badConfiguration) ∨
    (s.configOk = true ∧
      ((∃ e, s.found = some (.error e) ∧ r = .undecodable e) ∨
       (∃ i k, s.found = some (.ok i) ∧ namesSlot i k ∧ s.nSlots ≤ k ∧ r = .badConnectionId k) ∨
       (∃ f, s.found = some (.ok (.checksum f)) ∧ f.length < 13 ∧ r = .checksumShortInput f.length)))

/-! ## Events -/

/-- 43_broadcast_paths R216: an id that names no slot is refused. -/
def Obligations.BadConnectionIdRefused : Prop :=
  ∀ (s : State) (k : Nat) (bytes : List Byte), s.nSlots ≤ k →
    exec (.evBytes k bytes) s = .refused (.badConnectionId k) ∧ exec (.evClosed k) s = .refused (.badConnectionId k)

/-- Log entry 17, the model's choice: the internal operations on a slot refuse such an id too. -/
def Obligations.InternalBadSlotIdRefused : Prop :=
  ∀ (s : State) (i : Nat) (b : Byte), s.nSlots ≤ i →
    exec (.parseByte i b) s = .refused (.badConnectionId i) ∧
    exec (.resetParser i) s = .refused (.badConnectionId i) ∧
    exec (.deactivate i) s = .refused (.badConnectionId i)

/-- 43_broadcast_paths R201: the least inactive slot is assigned and its parser reset; with none, the client is
rejected, logged, and no slot changes. -/
def Obligations.ConnectTakesLeastFreeSlot : Prop :=
  ∀ s : State,
    (∀ (i : Nat) (sl : Slot), s.slots[i]? = some sl → sl.active = false →
      (∀ (j : Nat) (a : Slot), j < i → s.slots[j]? = some a → a.active = true) →
      exec .evConnect s = .next { s with
        slots := s.slots.set i { active := true, parser := { sl.parser with st := .wait, idx := 0 } }
        result := .assigned i }) ∧
    ((∀ sl ∈ s.slots, sl.active = true) →
      exec .evConnect s = .next { s with trace := s.trace ++ [.log .registryFull], result := .rejected })

/-- 43_broadcast_paths R213: an active slot is deactivated, an inactive one is left alone, an id that names no slot
is refused, nothing is emitted. -/
def Obligations.ClosedDeactivatesActiveSlot : Prop :=
  ∀ (s : State) (k : Nat),
    (∀ sl, s.slots[k]? = some sl → sl.active = true → exec (.evClosed k) s = .next { s with
      slots := s.slots.set k { active := false, parser := { sl.parser with st := .wait, idx := 0 } }
      result := .nothing }) ∧
    (∀ sl, s.slots[k]? = some sl → sl.active = false →
      exec (.evClosed k) s = .next { s with result := .nothing }) ∧
    (s.nSlots ≤ k → exec (.evClosed k) s = .refused (.badConnectionId k))

/-- 43_broadcast_paths R207, the loop turn by turn: each byte is parsed, a frame it completes is dispatched before
the next byte, bytes met while the slot is inactive do nothing, and an id that names no slot is refused. -/
def Obligations.EvBytesRunsTheLoop : Prop :=
  ∀ (s : State) (k : Nat),
    (k < s.nSlots → exec (.evBytes k []) s = .next { s with result := .nothing }) ∧
    (∀ b bs, k < s.nSlots → s.isActive k = false →
      exec (.evBytes k (b :: bs)) s = .next { s with result := .nothing }) ∧
    (∀ b bs, s.isActive k = true → ∃ t ready f,
      exec (.parseByte k b) s = .next t ∧ t.result = .parsed ready f ∧
      (ready = false → exec (.evBytes k (b :: bs)) s = exec (.evBytes k bs) t) ∧
      (ready = true → ∃ w u, WireFrame.bytes w = f ∧ exec (.clientFrame k w) t = .next u ∧
        exec (.evBytes k (b :: bs)) s = exec (.evBytes k bs) u)) ∧
    (∀ bytes, s.nSlots ≤ k → exec (.evBytes k bytes) s = .refused (.badConnectionId k))

/-- 43_broadcast_paths R215: bytes for an inactive slot do nothing, and those left when the slot became inactive
are discarded. -/
def Obligations.InactiveSlotBytesDiscarded : Prop :=
  ∀ (s : State) (k : Nat), k < s.nSlots →
    (∀ bytes, s.isActive k = false → exec (.evBytes k bytes) s = .next { s with result := .nothing }) ∧
    (∀ xs ys t, exec (.evBytes k xs) s = .next t → t.isActive k = false →
      exec (.evBytes k (xs ++ ys)) s = exec (.evBytes k xs) s)

/-- 20_memory R57, 43_broadcast_paths R207: `EV_BYTES` completes on every list, and how the bytes are cut into
events does not matter. -/
def Obligations.BatchingDoesNotMatter : Prop :=
  ∀ (s : State) (k : Nat) (xs ys : List Byte), k < s.nSlots →
    ∃ t, exec (.evBytes k xs) s = .next t ∧ t.result = .nothing ∧ t.nSlots = s.nSlots ∧
      exec (.evBytes k (xs ++ ys)) s = exec (.evBytes k ys) t

/-- 43_broadcast_paths R207, 40_parser R110: a whole frame received on an active waiting slot is dispatched by
the client-receive path, the slot's parser being back in `WAIT` with the frame's length as its index. -/
def Obligations.ReceivedFrameIsDispatched : Prop :=
  ∀ (s : State) (k : Nat) (sl : Slot) (w : WireFrame), s.slots[k]? = some sl → sl.active = true →
    sl.parser.st = .wait → isWireFrame s.cfg w.bytes = true →
    (w.bytes.length ≠ 5 → byteAt w.bytes 4 ≠ s.cfg.endMarker) →
    (w.bytes.length = 15 → byteAt w.bytes 12 ≠ s.cfg.endMarker) →
    ∃ (buf : Vector Byte 16) (t : State), buf.toList = w.bytes ++ sl.parser.buf.toList.drop w.bytes.length ∧
      exec (.clientFrame k w) { s with
        slots := s.slots.set k { sl with parser := { st := .wait, idx := w.bytes.length, buf := buf } } } = .next t ∧
      exec (.evBytes k w.bytes) s = .next t

/-- 70_reset R286: a 15-byte frame with the end marker at byte 4, or at byte 12, is cut there; bytes after the cut
that are no start marker are discarded. -/
def Obligations.PrematureTerminatorCutsTheFrame : Prop :=
  ∀ (s : State) (k : Nat) (sl : Slot) (f : List Byte), s.slots[k]? = some sl → sl.active = true →
    sl.parser.st = .wait → isWireFrame s.cfg f = true → f.length = 15 →
    (byteAt f 4 = s.cfg.endMarker → (∀ b ∈ f.drop 5, b ≠ s.cfg.startMarker) →
      exec (.evBytes k f) s = exec (.evBytes k (f.take 5)) s) ∧
    (byteAt f 4 ≠ s.cfg.endMarker → byteAt f 12 = s.cfg.endMarker → (∀ b ∈ f.drop 13, b ≠ s.cfg.startMarker) →
      exec (.evBytes k f) s = exec (.evBytes k (f.take 13)) s)

/-- The frame of `EV_BYTES` and of the dispatching instructions (40_parser R112, 43_broadcast_paths R203,
20_memory R58): configuration, deliveries and capacity stay; the trace grows; a slot other than the receiving one
changes only by being deactivated, whole, after a failed write to it that stands in the trace. -/
def Obligations.OtherSlotsChangeOnlyByFailedWrite : Prop :=
  ∀ (s t : State) (i : Instr) (k : Option Nat),
    ((isDispatch i = true ∧ k = none) ∨ ∃ c bytes, i = .evBytes c bytes ∧ k = some c) → exec i s = .next t →
    t.cfg = s.cfg ∧ t.pending = s.pending ∧ t.call = s.call ∧ t.nSlots = s.nSlots ∧
    ∃ as, t.trace = s.trace ++ as ∧ ∀ j, k ≠ some j →
      t.slots[j]? = s.slots[j]? ∨
      ∃ sl f, s.slots[j]? = some sl ∧ sl.active = true ∧ .write j f false ∈ as ∧
        t.slots[j]? = some { active := false, parser := { sl.parser with st := .wait, idx := 0 } }

/-! ## Broadcaster -/

/-- 43_broadcast_paths R202 to R204: the loop is the slot-by-slot description: ascending order, one question
per active slot, one write and one more question per connected one, deactivation at once on failure. -/
def Obligations.BroadcastIsSlotBySlot : Prop :=
  ∀ (s : State) (f : List Byte), exec (.broadcast f) s = .next { s.afterBroadcast f with result := .nothing }

/-- 43_broadcast_paths R205: with no active slot nothing is emitted and nothing changes. -/
def Obligations.BroadcastToNobody : Prop :=
  ∀ (s : State) (f : List Byte), (∀ sl ∈ s.slots, sl.active = false) →
    exec (.broadcast f) s = .next { s with result := .nothing }

/-- 43_broadcast_paths R206: the message is encoded, the display told, the frame broadcast. -/
def Obligations.CanRxEncodesNotifiesBroadcasts : Prop :=
  ∀ (s : State) (m : CanMsg), ∃ f, exec (.encode m) s = .next { s with result := .frame f } ∧
    exec (.evCanRx m) s = .next
      { ({ s with trace := s.trace ++ [.notify .busToNet f] } : State).afterBroadcast f with result := .nothing }

/-! ## Frame kinds -/

/-- 42_responder R172, R173, R175: the three queries with one canned reply, whatever byte 3 is: `RESPOND` gives the
one frame and no log entry, and the client path broadcasts it. -/
def Obligations.SingleReplyQueriesBroadcastTheirFrame : Prop :=
  ∀ (s : State) (param : Byte), s.cfg.ok = true →
    (exec (.respond (frame5 s.cfg s.cfg.gatewayAddr Config.selHw param)) s =
        .next { s with result := .replies [s.cfg.cannedHw] none } ∧
      exec (.sysqHwType param) s = .next { s.afterBroadcast s.cfg.cannedHw with result := .nothing }) ∧
    (exec (.respond (frame5 s.cfg s.cfg.gatewayAddr s.cfg.selFw param)) s =
        .next { s with result := .replies [s.cfg.cannedFw] none } ∧
      exec (.sysqFwType param) s = .next { s.afterBroadcast s.cfg.cannedFw with result := .nothing }) ∧
    (exec (.respond (frame5 s.cfg s.cfg.gatewayAddr s.cfg.selVolt param)) s =
        .next { s with result := .replies [s.cfg.cannedVolt] none } ∧
      exec (.sysqSupplyVoltage param) s = .next { s.afterBroadcast s.cfg.cannedVolt with result := .nothing })

/-- 42_responder R174: two replies, two broadcasts, in order, the first complete before the second. -/
def Obligations.DescriptionQueryBroadcastsTwoFrames : Prop :=
  ∀ (s : State) (param : Byte), s.cfg.ok = true →
    exec (.respond (frame5 s.cfg s.cfg.gatewayAddr Config.selDesc param)) s =
      .next { s with result := .replies [s.cfg.cannedDesc1, s.cfg.cannedDesc2] none } ∧
    exec (.sysqDescription param) s = .next
      { (s.afterBroadcast s.cfg.cannedDesc1).afterBroadcast s.cfg.cannedDesc2 with result := .nothing }

/-- 42_responder R176: an unknown selector is logged, nothing is sent and no slot changes. -/
def Obligations.UnknownSelectorIsLogged : Prop :=
  ∀ (s : State) (sel param : Byte), sel ∉ [Config.selHw, s.cfg.selFw, Config.selDesc, s.cfg.selVolt] →
    exec (.respond (frame5 s.cfg s.cfg.gatewayAddr sel param)) s =
      .next { s with result := .replies [] (some (.unknownCommand sel)) } ∧
    exec (.sysqUnknown sel param) s = .next
      { s with trace := s.trace ++ [.log (.unknownCommand sel)], result := .nothing }

/-- 43_broadcast_paths R211, R212: the two shapes that are logged and dropped. -/
def Obligations.UnrecognizedShapesAreLogged : Prop :=
  ∀ (s : State) (node cmd param : Byte) (body : Vector Byte 11),
    exec (.shortUnrecognized node cmd param) s = .next
      { s with trace := s.trace ++ [.log (.unrecognizedShape 5 node)], result := .nothing } ∧
    exec (.reservedF13 body) s = .next
      { s with trace := s.trace ++ [.log (.unrecognizedShape 13 body[0])], result := .nothing }

/-- A CAN frame delivered by itself is told to the display and transmitted, whatever its checksum byte; a failure is
logged. That the frame kind includes the `Notify` of the path that sorts it is the model's reading (log entry 10). -/
def Obligations.CanFrameIsTransmitted : Prop :=
  ∀ (s : State) (b1 b2 b3 b4 ck : Byte) (d : Vector Byte 8), ∃ id : Ident,
    exec (.idUnpack b1 b2 b3 b4) s = .next { s with result := .ident id } ∧
    exec (.canFrame b1 b2 b3 b4 d ck) s = .next
      { ({ s with trace := s.trace ++ [.notify .netToBus
            ([s.cfg.startMarker, b1, b2, b3, b4] ++ d.toList ++ [ck, s.cfg.endMarker])] } : State).afterTransmit
          ⟨id, 8, d⟩ with result := .nothing }

/-- 43_broadcast_paths R208, a completed frame of each length, the queries by their selector. -/
def Obligations.ClientFrameSortsByLengthAndNode : Prop :=
  ∀ (s : State) (k : Nat), s.cfg.ok = true →
    (∀ v : Vector Byte 15, exec (.clientFrame k (.f15 v)) s = .next
      { ({ s with trace := s.trace ++ [.notify .netToBus v.toList] } : State).afterTransmit
          ⟨unpackIdent s.cfg.packing v[1] v[2] v[3] v[4], 8, #v[v[5], v[6], v[7], v[8], v[9], v[10], v[11], v[12]]⟩
        with result := .nothing }) ∧
    (∀ v : Vector Byte 13, exec (.clientFrame k (.f13 v)) s = .next
      { s with trace := s.trace ++ [.log (.unrecognizedShape 13 v[1])], result := .nothing }) ∧
    (∀ v : Vector Byte 5, v[1] ≠ s.cfg.gatewayAddr → exec (.clientFrame k (.f5 v)) s = .next
      { s with trace := s.trace ++ [.log (.unrecognizedShape 5 v[1])], result := .nothing }) ∧
    (∀ v : Vector Byte 5, v[1] = s.cfg.gatewayAddr →
      (v[2] = Config.selHw → exec (.clientFrame k (.f5 v)) s = .next
        { s.afterBroadcast s.cfg.cannedHw with result := .nothing }) ∧
      (v[2] = s.cfg.selFw → exec (.clientFrame k (.f5 v)) s = .next
        { s.afterBroadcast s.cfg.cannedFw with result := .nothing }) ∧
      (v[2] = Config.selDesc → exec (.clientFrame k (.f5 v)) s = .next
        { (s.afterBroadcast s.cfg.cannedDesc1).afterBroadcast s.cfg.cannedDesc2 with result := .nothing }) ∧
      (v[2] = s.cfg.selVolt → exec (.clientFrame k (.f5 v)) s = .next
        { s.afterBroadcast s.cfg.cannedVolt with result := .nothing }) ∧
      (v[2] ∉ [Config.selHw, s.cfg.selFw, Config.selDesc, s.cfg.selVolt] →
        exec (.clientFrame k (.f5 v)) s = .next
          { s with trace := s.trace ++ [.log (.unknownCommand v[2])], result := .nothing }))

/-- 42_responder R177, 43_broadcast_paths R206: neither a 5-byte frame nor a message from the bus is ever
transmitted on the bus. -/
def Obligations.QueriesAndBusMessagesAreNeverTransmitted : Prop :=
  ∀ (s t : State) (i : Instr),
    ((∃ p, i = .sysqHwType p) ∨ (∃ p, i = .sysqFwType p) ∨ (∃ p, i = .sysqDescription p) ∨
      (∃ p, i = .sysqSupplyVoltage p) ∨ (∃ n p, i = .sysqUnknown n p) ∨ (∃ n k p, i = .shortUnrecognized n k p) ∨
      (∃ k v, i = .clientFrame k (.f5 v)) ∨ (∃ m, i = .evCanRx m)) →
    exec i s = .next t → ∃ as, t.trace = s.trace ++ as ∧ ∀ m ok, .transmit m ok ∉ as

/-! ## Codec ports -/

/-- 41_codec R130: bytes 1 to 12 are summed modulo 256; a shorter list is refused. -/
def Obligations.ChecksumResult : Prop :=
  ∀ (s : State) (f : List Byte),
    (13 ≤ f.length → exec (.checksum f) s = .next { s with result := (.checksum
      (byteAt f 1 + byteAt f 2 + byteAt f 3 + byteAt f 4 + byteAt f 5 + byteAt f 6 + byteAt f 7 + byteAt f 8
        + byteAt f 9 + byteAt f 10 + byteAt f 11 + byteAt f 12)) }) ∧
    (f.length < 13 → exec (.checksum f) s = .refused (.checksumShortInput f.length))

/-- 41_codec R131, 30_encoding R76: the default layout, field by field. -/
def Obligations.IdPackDefaultLayout : Prop :=
  ∀ (s : State) (id : Ident), s.cfg.packing = IdPacking.default →
    exec (.idPack id) s = .next { s with result := (.idBytes
      (id.extractLsb 28 21) (((id.extractLsb 20 17).setWidth 8 <<< 4) ||| (id.extractLsb 16 16).setWidth 8)
      (id.extractLsb 15 8) (id.extractLsb 7 0)) }

/-- 41_codec R132, 30_encoding R77: the default layout back; bits 3:1 of `b2` are ignored. -/
def Obligations.IdUnpackDefaultLayout : Prop :=
  ∀ (s : State) (b1 b2 b3 b4 : Byte), s.cfg.packing = IdPacking.default →
    exec (.idUnpack b1 b2 b3 b4) s = .next { s with result := (.ident
      ((b1.setWidth 29 <<< 21) ||| ((b2.extractLsb 7 4).setWidth 29 <<< 17)
        ||| ((b2.extractLsb 0 0).setWidth 29 <<< 16) ||| (b3.setWidth 29 <<< 8) ||| b4.setWidth 29)) }

/-- 30_encoding R78: L1 (unpacking undoes packing), L2 (the result is below 2^29), L3 (`b3, b4` depend on
`id[15:0]` only, `b1, b2` on `id[28:16]` only) and L4 (packing is a function of the identifier), for every
packing the configuration admits. -/
def Obligations.PackingLaws : Prop :=
  ∀ s : State, s.cfg.packing.ok = true →
    (∀ id : Ident, ∃ b1 b2 b3 b4,
      exec (.idPack id) s = .next { s with result := .idBytes b1 b2 b3 b4 } ∧
      exec (.idUnpack b1 b2 b3 b4) s = .next { s with result := .ident id }) ∧
    (∀ b1 b2 b3 b4, ∃ id : Ident, id.toNat < 2 ^ 29 ∧
      exec (.idUnpack b1 b2 b3 b4) s = .next { s with result := .ident id }) ∧
    (∀ (id id' : Ident) (t t' : State) (b1 b2 b3 b4 b1' b2' b3' b4' : Byte), t.cfg.packing = t'.cfg.packing →
      exec (.idPack id) t = .next { t with result := .idBytes b1 b2 b3 b4 } →
      exec (.idPack id') t' = .next { t' with result := .idBytes b1' b2' b3' b4' } →
      (id.extractLsb 15 0 = id'.extractLsb 15 0 → b3 = b3' ∧ b4 = b4') ∧
      (id.extractLsb 28 16 = id'.extractLsb 28 16 → b1 = b1' ∧ b2 = b2'))

/-- 00_scope R7, 30_encoding R78: the parameter is open over every pair that meets the laws. Each such pair, however
it combines bits, is `ID_PACK` and `ID_UNPACK` under a packing the configuration admits (log entry 5). -/
def Obligations.EveryLawfulPairIsAPacking : Prop :=
  ∀ (pack : Ident → Byte × Byte × Byte × Byte) (unpack : Byte → Byte → Byte → Byte → Ident),
    (∀ id, unpack (pack id).1 (pack id).2.1 (pack id).2.2.1 (pack id).2.2.2 = id) →
    (∀ id id' : Ident, id.extractLsb 15 0 = id'.extractLsb 15 0 → (pack id).2.2 = (pack id').2.2) →
    (∀ id id' : Ident, id.extractLsb 28 16 = id'.extractLsb 28 16 →
      (pack id).1 = (pack id').1 ∧ (pack id).2.1 = (pack id').2.1) →
    ∃ p : IdPacking, p.ok = true ∧ ∀ s : State, s.cfg.packing = p →
      (∀ id, exec (.idPack id) s = .next { s with
        result := .idBytes (pack id).1 (pack id).2.1 (pack id).2.2.1 (pack id).2.2.2 }) ∧
      (∀ b1 b2 b3 b4, exec (.idUnpack b1 b2 b3 b4) s = .next { s with result := .ident (unpack b1 b2 b3 b4) })

/-- 41_codec R133 (and R141): the fifteen bytes, data beyond `min(dlc, 8)` zero, the checksum over bytes 1 to 12. -/
def Obligations.EncodeResult : Prop :=
  ∀ (s : State) (m : CanMsg), ∃ b1 b2 b3 b4 : Byte,
    exec (.idPack m.id) s = .next { s with result := .idBytes b1 b2 b3 b4 } ∧
    ∀ d : Nat → Byte, (∀ k, d k = if k < m.dlc then m.data.toList.getD k 0 else 0) →
      exec (.encode m) s = .next { s with result := (.frame
        [s.cfg.startMarker, b1, b2, b3, b4, d 0, d 1, d 2, d 3, d 4, d 5, d 6, d 7,
          b1 + b2 + b3 + b4 + d 0 + d 1 + d 2 + d 3 + d 4 + d 5 + d 6 + d 7, s.cfg.endMarker]) }

/-- 41_codec R134: 15 bytes decode to the identifier of bytes 1 to 4, `dlc = 8` and bytes 5 to 12, whatever the
markers and the checksum are; any other length fails with `BAD_LENGTH`. -/
def Obligations.DecodeResultOfAnyList : Prop :=
  ∀ s : State,
    (∀ b0 b1 b2 b3 b4 d0 d1 d2 d3 d4 d5 d6 d7 b13 b14 : Byte, ∃ id : Ident,
      exec (.idUnpack b1 b2 b3 b4) s = .next { s with result := .ident id } ∧
      exec (.decode [b0, b1, b2, b3, b4, d0, d1, d2, d3, d4, d5, d6, d7, b13, b14]) s =
        .next { s with result := .decoded (.ok ⟨id, 8, #v[d0, d1, d2, d3, d4, d5, d6, d7]⟩) }) ∧
    (∀ f : List Byte, f.length ≠ 15 → exec (.decode f) s = .next { s with result := .decoded (.fail .badLength) })

/-- 41_codec R135: `VALIDATE` is true of a 15-byte list with both markers and the sum of bytes 1 to 12 at byte
13, and of nothing else. -/
def Obligations.ValidateResult : Prop :=
  ∀ (s : State) (f : List Byte), ∃ ok : Bool, exec (.validate f) s = .next { s with result := .valid ok } ∧
    (ok = true ↔ f.length = 15 ∧ byteAt f 0 = s.cfg.startMarker ∧ byteAt f 14 = s.cfg.endMarker ∧
      exec (.checksum f) s = .next { s with result := .checksum (byteAt f 13) })

/-- 41_codec R136: the first failing check in the order length, start, end, checksum; with none, what `DECODE`
gives, which is the case exactly when `VALIDATE` holds. -/
def Obligations.DecodeStrictResult : Prop :=
  ∀ (s : State) (f : List Byte),
    (f.length ≠ 15 → exec (.decodeStrict f) s = .next { s with result := .decoded (.fail .badLength) }) ∧
    (f.length = 15 → byteAt f 0 ≠ s.cfg.startMarker →
      exec (.decodeStrict f) s = .next { s with result := .decoded (.fail .badStart) }) ∧
    (f.length = 15 → byteAt f 0 = s.cfg.startMarker → byteAt f 14 ≠ s.cfg.endMarker →
      exec (.decodeStrict f) s = .next { s with result := .decoded (.fail .badEnd) }) ∧
    (f.length = 15 → byteAt f 0 = s.cfg.startMarker → byteAt f 14 = s.cfg.endMarker →
      exec (.checksum f) s ≠ .next { s with result := .checksum (byteAt f 13) } →
      exec (.decodeStrict f) s = .next { s with result := .decoded (.fail .badChecksum) }) ∧
    (exec (.validate f) s = .next { s with result := .valid true } ↔
      ∃ m, exec (.decodeStrict f) s = .next { s with result := .decoded (.ok m) }) ∧
    (exec (.validate f) s = .next { s with result := .valid true } → exec (.decodeStrict f) s = exec (.decode f) s)

/-- 41_codec R138: decode after encode keeps the identifier, sets `dlc = 8`, keeps the first `dlc` bytes and gives
zero for the others; for every admitted packing. -/
def Obligations.CodecRoundTrip : Prop :=
  ∀ (s : State) (m : CanMsg), s.cfg.packing.ok = true → m.dlc ≤ 8 →
    ∃ (f : List Byte) (d : Vector Byte 8), exec (.encode m) s = .next { s with result := .frame f } ∧
      exec (.decode f) s = .next { s with result := .decoded (.ok ⟨m.id, 8, d⟩) } ∧
      ∀ (k : Nat) (h : k < 8), d[k] = if k < m.dlc then m.data[k] else 0

/-- 41_codec R139: every encoded frame has 15 bytes between the markers with its checksum at byte 13, validates,
and decodes strictly as leniently. -/
def Obligations.EncodedFramesValidate : Prop :=
  ∀ (s : State) (m : CanMsg), ∃ f : List Byte, exec (.encode m) s = .next { s with result := .frame f } ∧
    f.length = 15 ∧ byteAt f 0 = s.cfg.startMarker ∧ byteAt f 14 = s.cfg.endMarker ∧
    exec (.checksum f) s = .next { s with result := .checksum (byteAt f 13) } ∧
    exec (.validate f) s = .next { s with result := .valid true } ∧
    exec (.decodeStrict f) s = exec (.decode f) s

/-- 41_codec R140: `DECODE` reads bytes 1 to 12 only, and of byte 2 in the default layout only bits 7:4 and bit 0. -/
def Obligations.DecodeIgnoresMarkersChecksumAndSpareBits : Prop :=
  ∀ (s : State) (f g : List Byte), f.length = 15 → g.length = 15 →
    ((∀ k, 1 ≤ k → k ≤ 12 → byteAt f k = byteAt g k) → exec (.decode f) s = exec (.decode g) s) ∧
    (s.cfg.packing = IdPacking.default → (∀ k, 1 ≤ k → k ≤ 12 → k ≠ 2 → byteAt f k = byteAt g k) →
      byteAt f 2 &&& 0xF1 = byteAt g 2 &&& 0xF1 → exec (.decode f) s = exec (.decode g) s)

/-- 41_codec R143, default layout: encoding a decoded 15-byte frame gives the corrected frame, markers and checksum
recomputed and bits 3:1 of byte 2 cleared; that is the frame itself when it validates and those bits are 0. -/
def Obligations.EncodeAfterDecodeCorrectsTheFrame : Prop :=
  ∀ (s : State) (f : List Byte), s.cfg.packing = IdPacking.default → f.length = 15 →
    ∃ (m : CanMsg) (g : List Byte) (ck : Byte), exec (.decode f) s = .next { s with result := .decoded (.ok m) } ∧
      exec (.encode m) s = .next { s with result := .frame g } ∧
      exec (.checksum g) s = .next { s with result := .checksum ck } ∧
      g = s.cfg.startMarker :: byteAt f 1 :: (byteAt f 2 &&& 0xF1) :: ((f.drop 3).take 10) ++ [ck, s.cfg.endMarker] ∧
      (exec (.validate f) s = .next { s with result := .valid true } → byteAt f 2 &&& 0x0E = 0 → g = f)

/-- 41_codec R137, 10_state R32: a port changes nothing but the result, and its outcome depends on its operands and
the configuration alone. -/
def Obligations.PortsArePure : Prop :=
  ∀ (i : Instr) (s s' : State), isPort i = true → s.cfg = s'.cfg →
    (∀ t, exec i s = .next t → t = { s with result := t.result } ∧ exec i s' = .next { s' with result := t.result }) ∧
    (∀ r, exec i s = .refused r → exec i s' = .refused r)

/-! ## Responder -/

/-- 42_responder R171: the table, row by row. -/
def Obligations.RespondTable : Prop :=
  ∀ (s : State) (f : List Byte), s.cfg.ok = true →
    (¬ (f.length = 5 ∧ byteAt f 1 = s.cfg.gatewayAddr) →
      exec (.respond f) s = .next { s with result := .replies [] none }) ∧
    (f.length = 5 → byteAt f 1 = s.cfg.gatewayAddr →
      (byteAt f 2 = Config.selHw → exec (.respond f) s = .next { s with result := .replies [s.cfg.cannedHw] none }) ∧
      (byteAt f 2 = s.cfg.selFw → exec (.respond f) s = .next { s with result := .replies [s.cfg.cannedFw] none }) ∧
      (byteAt f 2 = Config.selDesc → exec (.respond f) s = .next { s with
        result := .replies [s.cfg.cannedDesc1, s.cfg.cannedDesc2] none }) ∧
      (byteAt f 2 = s.cfg.selVolt → exec (.respond f) s = .next { s with
        result := .replies [s.cfg.cannedVolt] none }) ∧
      (byteAt f 2 ∉ [Config.selHw, s.cfg.selFw, Config.selDesc, s.cfg.selVolt] → exec (.respond f) s = .next { s with
        result := .replies [] (some (.unknownCommand (byteAt f 2))) }))

/-- 30_encoding R86 with the named premise `CANNED_WF`, 42_responder R179: every reply is a frame that validates,
and there are at most two. -/
def Obligations.RepliesAreValidFrames : Prop :=
  ∀ (s : State) (f : List Byte), s.cfg.ok = true → CannedWf s.cfg →
    ∃ rs l, exec (.respond f) s = .next { s with result := .replies rs l } ∧ rs.length ≤ 2 ∧
      ∀ r ∈ rs, exec (.validate r) s = .next { s with result := .valid true }
end

