-- ==== Sys2Proof/Laws/Decode.lean ====
section
/-! SUPPORT. The operand readers read back what the operand writers wrote (log entry 8), and the tcode table
is read both ways (30_encoding R88). -/

namespace Sys2Proof

theorem natByte_toNat (n k : Nat) : (natByte n k).toNat = n / 2 ^ (8 * k) % 256 := by
  simp [natByte, Nat.shiftRight_eq_div_pow]

/-- A number is read back whatever its size, when the fuel is at least the number. -/
theorem takeNat_putNatFuel (r : List Byte) : ∀ (fuel n : Nat), n ≤ fuel → takeNat (putNatFuel fuel n ++ r) = .ok (n, r)
  | 0, n, h => by
    obtain rfl : n = 0 := by omega
    rfl
  | fuel + 1, n, h => by
    unfold putNatFuel
    split
    case isTrue hs =>
      have hb : (BitVec.ofNat 8 n).toNat = n := by simp; omega
      simp [takeNat, hb, hs]
    case isFalse hs =>
      have hb : (BitVec.ofNat 8 (128 + n % 128)).toNat = 128 + n % 128 := by simp; omega
      have ih := takeNat_putNatFuel r fuel (n / 128) (by omega)
      simp only [List.cons_append, takeNat, hb, ih]
      rw [if_neg (by omega), show 128 + n % 128 - 128 + 128 * (n / 128) = n by omega]

theorem takeNat_putNat (n : Nat) (r : List Byte) : takeNat (putNat n ++ r) = .ok (n, r) :=
  takeNat_putNatFuel r n n n.le_refl

theorem takeExactly_append (f r : List Byte) : takeExactly f.length (f ++ r) = .ok (f, r) := by
  simp [takeExactly]

theorem takeBytes_putBytes (f r : List Byte) : takeBytes (putBytes f ++ r) = .ok (f, r) := by
  simp [takeBytes, putBytes, List.append_assoc, takeNat_putNat, takeExactly_append]

/-- A word with a byte after it, as a number. -/
theorem append_byte_toNat {n : Nat} (a : BitVec n) (b : Byte) : (a ++ b).toNat = a.toNat * 256 + b.toNat := by
  rw [BitVec.toNat_append, ← Nat.shiftLeft_add_eq_or_of_lt b.isLt, Nat.shiftLeft_eq]

theorem takeIdent_putIdent (id : Ident) (r : List Byte) : takeIdent (putIdent id ++ r) = .ok (id, r) := by
  have hlt := id.isLt
  simp only [putIdent, List.cons_append, List.nil_append, takeIdent]
  congr 2
  apply BitVec.eq_of_toNat_eq
  simp only [BitVec.toNat_setWidth, append_byte_toNat, natByte_toNat]
  omega

theorem takeData8_toList (d : Vector Byte 8) (r : List Byte) : takeData8 (d.toList ++ r) = .ok (d, r) := by
  obtain ⟨⟨l⟩, h⟩ := d
  match l, h with
  | [_, _, _, _, _, _, _, _], _ => rfl

theorem takeMsg_putMsg (m : CanMsg) (r : List Byte) : takeMsg (putMsg m ++ r) = .ok (m, r) := by
  simp [takeMsg, putMsg, takeIdent_putIdent, takeNat_putNat, takeData8_toList, bind, Except.bind, pure, Except.pure]

theorem takeVector_toList {n : Nat} (v : Vector Byte n) (r : List Byte) : takeVector n (v.toList ++ r) = .ok (v, r) := by
  obtain ⟨⟨l⟩, h⟩ := v
  simp only [Vector.toList_mk, takeVector]
  have h' : l.length = n := by simpa using h
  subst h'
  simp

theorem takeFrame_putFrame (f : WireFrame) (r : List Byte) : takeFrame (putFrame f ++ r) = .ok (f, r) := by
  cases f <;> simp [putFrame, takeFrame, takeVector_toList, Except.map]

/-- The codes are read back to their operations. -/
theorem Tcode.ofByte_code (t : Tcode) : Tcode.ofByte t.code = some t := by cases t <;> decide

/-- A byte that names an operation is its code. -/
theorem Tcode.code_of_ofByte {b : Byte} {t : Tcode} (h : Tcode.ofByte b = some t) : t.code = b := by
  have := List.find?_some h
  simpa using this

/-- The bytes of a completed frame, counted. -/
theorem WireFrame.bytes_length (f : WireFrame) : f.bytes.length = 5 ∨ f.bytes.length = 13 ∨ f.bytes.length = 15 := by
  cases f <;> simp [WireFrame.bytes]

/-- The operation an instruction is, or none for a frame kind. -/
def tcodeOf : Instr → Option Tcode
  | .canFrame _ _ _ _ _ _ => none
  | .sysqHwType _ => none
  | .sysqFwType _ => none
  | .sysqDescription _ => none
  | .sysqSupplyVoltage _ => none
  | .sysqUnknown _ _ => none
  | .shortUnrecognized _ _ _ => none
  | .reservedF13 _ => none
  | .evConnect => some .evConnect
  | .evBytes _ _ => some .evBytes
  | .evClosed _ => some .evClosed
  | .evCanRx _ => some .evCanRx
  | .checksum _ => some .checksum
  | .idPack _ => some .idPack
  | .idUnpack _ _ _ _ => some .idUnpack
  | .encode _ => some .encode
  | .decode _ => some .decode
  | .validate _ => some .validate
  | .decodeStrict _ => some .decodeStrict
  | .parseByte _ _ => some .parseByte
  | .resetParser _ => some .resetParser
  | .respond _ => some .respond
  | .broadcast _ => some .broadcast
  | .clientFrame _ _ => some .clientFrame
  | .deactivate _ => some .deactivate

/-- What an operand reader makes of an `Except`: a value with the rest, or an error of the readers. -/
theorem bind_ok {α β : Type} {x : Except Reject α} {g : α → Except Reject β} {b : β} (h : (x >>= g) = .ok b) :
    ∃ a, x = .ok a ∧ g a = .ok b := by
  cases x with
  | error e => cases h
  | ok a => exact ⟨a, rfl, h⟩

theorem bind_error {α β : Type} {x : Except Reject α} {g : α → Except Reject β} {e : Reject}
    (h : (x >>= g) = .error e) : x = .error e ∨ ∃ a, x = .ok a ∧ g a = .error e := by
  cases x with
  | error e' => cases h; exact .inl rfl
  | ok a => exact .inr ⟨a, rfl, h⟩

/-- The operands of a tcode belong to an instruction with that tcode. -/
theorem tcodeOf_decodeOperands {t : Tcode} {bs r : List Byte} {i : Instr} (h : decodeOperands t bs = .ok (i, r)) :
    tcodeOf i = some t := by
  cases t <;> simp only [decodeOperands] at h
  case evConnect => cases h; rfl
  all_goals
    obtain ⟨_, -, h⟩ := bind_ok h
    first
      | cases h; rfl
      | obtain ⟨_, -, h⟩ := bind_ok h
        first
          | cases h; rfl
          | obtain ⟨_, -, h⟩ := bind_ok h
            obtain ⟨_, -, h⟩ := bind_ok h
            cases h; rfl

/-- An operand reader fails by `truncated` or `badFormat` only. -/
def Reject.ofOperands : Reject → Prop
  | .truncated => True
  | .badFormat _ => True
  | .empty => False
  | .unknownTcode _ => False
  | .trailing => False
  | .notAWireFrame => False
  | .internalOnly _ => False

theorem takeByte_error {bs : List Byte} {e : Reject} (h : takeByte bs = .error e) : e.ofOperands := by
  cases bs <;> cases h; trivial

theorem takeNat_error {bs : List Byte} {e : Reject} (h : takeNat bs = .error e) : e.ofOperands := by
  induction bs with
  | nil => cases h; trivial
  | cons b bs ih =>
    unfold takeNat at h
    split at h
    · cases h
    split at h
    · cases h
    · rename_i hx
      cases h
      exact ih hx

theorem takeBytes_error {bs : List Byte} {e : Reject} (h : takeBytes bs = .error e) : e.ofOperands := by
  unfold takeBytes at h
  split at h
  · unfold takeExactly at h; split at h <;> cases h; trivial
  · rename_i hx; cases h; exact takeNat_error hx

theorem takeIdent_error {bs : List Byte} {e : Reject} (h : takeIdent bs = .error e) : e.ofOperands := by
  unfold takeIdent at h; split at h <;> cases h; trivial

theorem takeMsg_error {bs : List Byte} {e : Reject} (h : takeMsg bs = .error e) : e.ofOperands := by
  unfold takeMsg at h
  rcases bind_error h with h | ⟨_, -, h⟩
  · exact takeIdent_error h
  rcases bind_error h with h | ⟨_, -, h⟩
  · exact takeNat_error h
  rcases bind_error h with h | ⟨_, -, h⟩
  · unfold takeData8 at h; split at h <;> cases h; trivial
  · cases h

theorem takeFrame_error {bs : List Byte} {e : Reject} (h : takeFrame bs = .error e) : e.ofOperands := by
  have hv : ∀ {n : Nat} {β : Type} {g : Vector Byte n × List Byte → β} {bs : List Byte},
      (takeVector n bs).map g = .error e → e.ofOperands := by
    intro n β g bs h
    unfold takeVector at h; split at h <;> cases h; trivial
  unfold takeFrame at h
  split at h
  · cases h; trivial
  split at h
  · exact hv h
  split at h
  · exact hv h
  split at h
  · exact hv h
  · cases h; trivial

theorem decodeOperands_error {t : Tcode} {bs : List Byte} {e : Reject} (h : decodeOperands t bs = .error e) :
    e.ofOperands := by
  cases t <;> simp only [decodeOperands] at h
  case evConnect => cases h
  all_goals rcases bind_error h with h | ⟨_, -, h⟩
  all_goals first
    | exact takeNat_error h
    | exact takeBytes_error h
    | exact takeMsg_error h
    | exact takeIdent_error h
    | exact takeByte_error h
    | cases h
    | skip
  all_goals rcases bind_error h with h | ⟨_, -, h⟩
  all_goals first
    | exact takeBytes_error h
    | exact takeByte_error h
    | exact takeFrame_error h
    | cases h
    | skip
  all_goals rcases bind_error h with h | ⟨_, -, h⟩
  · exact takeByte_error h
  rcases bind_error h with h | ⟨_, -, h⟩
  · exact takeByte_error h
  · cases h

/-- A transaction decodes to an instruction of the tcode it begins with. -/
theorem tcodeOf_decodeTransaction {b : Byte} {bs : List Byte} {i : Instr}
    (h : decodeTransaction (b :: bs) = .ok i) : ∃ t, Tcode.ofByte b = some t ∧ tcodeOf i = some t := by
  simp only [decodeTransaction] at h
  split at h
  · cases h
  · rename_i t ht
    refine ⟨t, ht, ?_⟩
    split at h <;> cases h
    rename_i hx
    exact tcodeOf_decodeOperands hx

/-- What the environment hands in decodes as any transaction does, and may be handed in. -/
theorem decodeInput_ok {bs : List Byte} {i : Instr} :
    decodeInput bs = .ok i ↔ decodeTransaction bs = .ok i ∧ isInput i = true := by
  unfold decodeInput
  split
  case h_1 j hj =>
    rw [hj]
    cases hi : isInput j
    · simp only [Bool.false_eq_true, if_false]
      refine ⟨fun h => (by cases h), fun ⟨h, hi'⟩ => ?_⟩
      cases h
      rw [hi] at hi'
      cases hi'
    · simp only [if_true]
      refine ⟨fun h => ?_, fun h => h.1⟩
      cases h
      exact ⟨rfl, hi⟩
  case h_2 e he => rw [he]; simp

/-- A wire frame decodes to a frame kind. -/
theorem tcodeOf_decodeFrame {c : Config} {f : List Byte} {i : Instr} (h : decodeFrame c f = .ok i) :
    tcodeOf i = none := by
  unfold decodeFrame at h
  repeat' split at h
  all_goals cases h
  all_goals rfl

end Sys2Proof
end

