-- ==== Sys2Proof/Laws/State.lean ====
section
/-! SUPPORT. One lemma per field and per named update of the state, so that no proof unfolds a record update. -/

namespace Sys2Proof.Machine

@[simp] theorem State.setSlot_cfg (i : Nat) (sl : Slot) (s : State) : (s.setSlot i sl).cfg = s.cfg := rfl
@[simp] theorem State.setSlot_slots (i : Nat) (sl : Slot) (s : State) : (s.setSlot i sl).slots = s.slots.set i sl := rfl
@[simp] theorem State.setSlot_trace (i : Nat) (sl : Slot) (s : State) : (s.setSlot i sl).trace = s.trace := rfl
@[simp] theorem State.setSlot_answers (i : Nat) (sl : Slot) (s : State) : (s.setSlot i sl).answers = s.answers := rfl
@[simp] theorem State.setSlot_draws (i : Nat) (sl : Slot) (s : State) : (s.setSlot i sl).draws = s.draws := rfl
@[simp] theorem State.setSlot_pending (i : Nat) (sl : Slot) (s : State) : (s.setSlot i sl).pending = s.pending := rfl
@[simp] theorem State.setSlot_call (i : Nat) (sl : Slot) (s : State) : (s.setSlot i sl).call = s.call := rfl
@[simp] theorem State.setSlot_result (i : Nat) (sl : Slot) (s : State) : (s.setSlot i sl).result = s.result := rfl
@[simp] theorem State.setSlot_nSlots (i : Nat) (sl : Slot) (s : State) : (s.setSlot i sl).nSlots = s.nSlots := by simp [State.nSlots]

@[simp] theorem State.modifySlot_cfg (i : Nat) (g : Slot → Slot) (s : State) : (s.modifySlot i g).cfg = s.cfg := rfl
@[simp] theorem State.modifySlot_slots (i : Nat) (g : Slot → Slot) (s : State) : (s.modifySlot i g).slots = s.slots.modify i g := rfl
@[simp] theorem State.modifySlot_trace (i : Nat) (g : Slot → Slot) (s : State) : (s.modifySlot i g).trace = s.trace := rfl
@[simp] theorem State.modifySlot_answers (i : Nat) (g : Slot → Slot) (s : State) : (s.modifySlot i g).answers = s.answers := rfl
@[simp] theorem State.modifySlot_draws (i : Nat) (g : Slot → Slot) (s : State) : (s.modifySlot i g).draws = s.draws := rfl
@[simp] theorem State.modifySlot_pending (i : Nat) (g : Slot → Slot) (s : State) : (s.modifySlot i g).pending = s.pending := rfl
@[simp] theorem State.modifySlot_call (i : Nat) (g : Slot → Slot) (s : State) : (s.modifySlot i g).call = s.call := rfl
@[simp] theorem State.modifySlot_result (i : Nat) (g : Slot → Slot) (s : State) : (s.modifySlot i g).result = s.result := rfl
@[simp] theorem State.modifySlot_nSlots (i : Nat) (g : Slot → Slot) (s : State) : (s.modifySlot i g).nSlots = s.nSlots := by simp [State.nSlots]

@[simp] theorem State.emit_cfg (a : Action) (s : State) : (s.emit a).cfg = s.cfg := rfl
@[simp] theorem State.emit_slots (a : Action) (s : State) : (s.emit a).slots = s.slots := rfl
@[simp] theorem State.emit_trace (a : Action) (s : State) : (s.emit a).trace = s.trace ++ [a] := rfl
@[simp] theorem State.emit_answers (a : Action) (s : State) : (s.emit a).answers = s.answers := rfl
@[simp] theorem State.emit_draws (a : Action) (s : State) : (s.emit a).draws = s.draws := rfl
@[simp] theorem State.emit_pending (a : Action) (s : State) : (s.emit a).pending = s.pending := rfl
@[simp] theorem State.emit_call (a : Action) (s : State) : (s.emit a).call = s.call := rfl
@[simp] theorem State.emit_result (a : Action) (s : State) : (s.emit a).result = s.result := rfl
@[simp] theorem State.emit_nSlots (a : Action) (s : State) : (s.emit a).nSlots = s.nSlots := rfl

@[simp] theorem State.setResult_cfg (r : Result) (s : State) : (s.setResult r).cfg = s.cfg := rfl
@[simp] theorem State.setResult_slots (r : Result) (s : State) : (s.setResult r).slots = s.slots := rfl
@[simp] theorem State.setResult_trace (r : Result) (s : State) : (s.setResult r).trace = s.trace := rfl
@[simp] theorem State.setResult_answers (r : Result) (s : State) : (s.setResult r).answers = s.answers := rfl
@[simp] theorem State.setResult_draws (r : Result) (s : State) : (s.setResult r).draws = s.draws := rfl
@[simp] theorem State.setResult_pending (r : Result) (s : State) : (s.setResult r).pending = s.pending := rfl
@[simp] theorem State.setResult_call (r : Result) (s : State) : (s.setResult r).call = s.call := rfl
@[simp] theorem State.setResult_result (r : Result) (s : State) : (s.setResult r).result = r := rfl
@[simp] theorem State.setResult_nSlots (r : Result) (s : State) : (s.setResult r).nSlots = s.nSlots := rfl

@[simp] theorem State.afterDraw_cfg (s : State) : (s.afterDraw).cfg = s.cfg := rfl
@[simp] theorem State.afterDraw_slots (s : State) : (s.afterDraw).slots = s.slots := rfl
@[simp] theorem State.afterDraw_trace (s : State) : (s.afterDraw).trace = s.trace := rfl
@[simp] theorem State.afterDraw_answers (s : State) : (s.afterDraw).answers = s.answers.tail := rfl
@[simp] theorem State.afterDraw_draws (s : State) : (s.afterDraw).draws = s.draws + 1 := rfl
@[simp] theorem State.afterDraw_pending (s : State) : (s.afterDraw).pending = s.pending := rfl
@[simp] theorem State.afterDraw_call (s : State) : (s.afterDraw).call = s.call := rfl
@[simp] theorem State.afterDraw_result (s : State) : (s.afterDraw).result = s.result := rfl
@[simp] theorem State.afterDraw_nSlots (s : State) : (s.afterDraw).nSlots = s.nSlots := rfl

@[simp] theorem State.popPending_cfg (s : State) : (s.popPending).cfg = s.cfg := rfl
@[simp] theorem State.popPending_slots (s : State) : (s.popPending).slots = s.slots := rfl
@[simp] theorem State.popPending_trace (s : State) : (s.popPending).trace = s.trace := rfl
@[simp] theorem State.popPending_answers (s : State) : (s.popPending).answers = s.answers := rfl
@[simp] theorem State.popPending_draws (s : State) : (s.popPending).draws = s.draws := rfl
@[simp] theorem State.popPending_pending (s : State) : (s.popPending).pending = s.pending.tail := rfl
@[simp] theorem State.popPending_call (s : State) : (s.popPending).call = s.call := rfl
@[simp] theorem State.popPending_result (s : State) : (s.popPending).result = s.result := rfl
@[simp] theorem State.popPending_nSlots (s : State) : (s.popPending).nSlots = s.nSlots := rfl

@[simp] theorem State.clearCall_cfg (s : State) : (s.clearCall).cfg = s.cfg := rfl
@[simp] theorem State.clearCall_slots (s : State) : (s.clearCall).slots = s.slots := rfl
@[simp] theorem State.clearCall_trace (s : State) : (s.clearCall).trace = s.trace := rfl
@[simp] theorem State.clearCall_answers (s : State) : (s.clearCall).answers = s.answers := rfl
@[simp] theorem State.clearCall_draws (s : State) : (s.clearCall).draws = s.draws := rfl
@[simp] theorem State.clearCall_pending (s : State) : (s.clearCall).pending = s.pending := rfl
@[simp] theorem State.clearCall_result (s : State) : (s.clearCall).result = s.result := rfl
@[simp] theorem State.clearCall_nSlots (s : State) : (s.clearCall).nSlots = s.nSlots := rfl
@[simp] theorem State.clearCall_call (s : State) : (s.clearCall).call = none := rfl

@[simp] theorem State.resetParser_cfg (i : Nat) (s : State) : (s.resetParser i).cfg = s.cfg := rfl
@[simp] theorem State.resetParser_slots (i : Nat) (s : State) : (s.resetParser i).slots = s.slots.modify i Slot.resetParser := rfl
@[simp] theorem State.resetParser_trace (i : Nat) (s : State) : (s.resetParser i).trace = s.trace := rfl
@[simp] theorem State.resetParser_answers (i : Nat) (s : State) : (s.resetParser i).answers = s.answers := rfl
@[simp] theorem State.resetParser_draws (i : Nat) (s : State) : (s.resetParser i).draws = s.draws := rfl
@[simp] theorem State.resetParser_pending (i : Nat) (s : State) : (s.resetParser i).pending = s.pending := rfl
@[simp] theorem State.resetParser_call (i : Nat) (s : State) : (s.resetParser i).call = s.call := rfl
@[simp] theorem State.resetParser_result (i : Nat) (s : State) : (s.resetParser i).result = s.result := rfl
@[simp] theorem State.resetParser_nSlots (i : Nat) (s : State) : (s.resetParser i).nSlots = s.nSlots := by simp [State.nSlots]

@[simp] theorem State.deactivate_cfg (i : Nat) (s : State) : (s.deactivate i).cfg = s.cfg := rfl
@[simp] theorem State.deactivate_slots (i : Nat) (s : State) : (s.deactivate i).slots = s.slots.modify i Slot.deactivated := rfl
@[simp] theorem State.deactivate_trace (i : Nat) (s : State) : (s.deactivate i).trace = s.trace := rfl
@[simp] theorem State.deactivate_answers (i : Nat) (s : State) : (s.deactivate i).answers = s.answers := rfl
@[simp] theorem State.deactivate_draws (i : Nat) (s : State) : (s.deactivate i).draws = s.draws := rfl
@[simp] theorem State.deactivate_pending (i : Nat) (s : State) : (s.deactivate i).pending = s.pending := rfl
@[simp] theorem State.deactivate_call (i : Nat) (s : State) : (s.deactivate i).call = s.call := rfl
@[simp] theorem State.deactivate_result (i : Nat) (s : State) : (s.deactivate i).result = s.result := rfl
@[simp] theorem State.deactivate_nSlots (i : Nat) (s : State) : (s.deactivate i).nSlots = s.nSlots := by simp [State.nSlots]

@[simp] theorem State.powerOn_cfg (c : Config) (n : Nat) : (State.powerOn c n).cfg = c := rfl
@[simp] theorem State.powerOn_slots (c : Config) (n : Nat) : (State.powerOn c n).slots = List.replicate n Slot.reset := rfl
@[simp] theorem State.powerOn_trace (c : Config) (n : Nat) : (State.powerOn c n).trace = [] := rfl
@[simp] theorem State.powerOn_pending (c : Config) (n : Nat) : (State.powerOn c n).pending = [] := rfl
@[simp] theorem State.powerOn_call (c : Config) (n : Nat) : (State.powerOn c n).call = none := rfl

@[simp] theorem Parser.clear_st (p : Parser) : p.clear.st = .wait := rfl
@[simp] theorem Parser.clear_idx (p : Parser) : p.clear.idx = 0 := rfl
@[simp] theorem Parser.clear_buf (p : Parser) : p.clear.buf = p.buf := rfl
@[simp] theorem Slot.resetParser_active (sl : Slot) : sl.resetParser.active = sl.active := rfl
@[simp] theorem Slot.resetParser_parser (sl : Slot) : sl.resetParser.parser = sl.parser.clear := rfl
@[simp] theorem Slot.deactivated_active (sl : Slot) : sl.deactivated.active = false := rfl
@[simp] theorem Slot.deactivated_parser (sl : Slot) : sl.deactivated.parser = sl.parser.clear := rfl
@[simp] theorem Slot.assigned_active (sl : Slot) : sl.assigned.active = true := rfl
@[simp] theorem Slot.assigned_parser (sl : Slot) : sl.assigned.parser = sl.parser.clear := rfl

/-- Two states with the same fields are the same. -/
theorem State.ext_fields {s t : State} (h1 : s.cfg = t.cfg) (h2 : s.slots = t.slots) (h3 : s.trace = t.trace)
    (h4 : s.answers = t.answers) (h5 : s.draws = t.draws) (h6 : s.pending = t.pending)
    (h7 : s.call = t.call) (h8 : s.result = t.result) : s = t := by
  cases s; cases t; simp_all

/-- Writing a slot's own contents back changes nothing. -/
theorem State.setSlot_self {s : State} {i : Nat} {sl : Slot} (h : s.slots[i]? = some sl) : s.setSlot i sl = s := by
  refine State.ext_fields rfl ?_ rfl rfl rfl rfl rfl rfl
  obtain ⟨hi, rfl⟩ := List.getElem?_eq_some_iff.1 h
  exact List.set_getElem_self hi

end Sys2Proof.Machine
end

