-- ==== Sys2Proof/Laws/Effects.lean ====
section
/-! SUPPORT. What the broadcaster and the client-receive path can do to a state, said once: they extend the
trace, deactivate active slots whose write failed, and leave everything else (43_broadcast_paths R202 to R212). -/

namespace Sys2Proof.Machine

/-- The effect of dispatching frames to clients and bus: the trace grows, and a slot that changed was active,
is now deactivated, and a failed write to it stands among the new actions (43_broadcast_paths R203). -/
structure Served (s t : State) : Prop where
  cfg : t.cfg = s.cfg
  pending : t.pending = s.pending
  call : t.call = s.call
  result : t.result = s.result
  nSlots : t.nSlots = s.nSlots
  slots : ∃ as, t.trace = s.trace ++ as ∧ ∀ i, t.slots[i]? = s.slots[i]? ∨
    ∃ sl g, s.slots[i]? = some sl ∧ sl.active = true ∧ t.slots[i]? = some sl.deactivated ∧ .write i g false ∈ as

theorem Served.refl (s : State) : Served s s :=
  ⟨rfl, rfl, rfl, rfl, rfl, [], by simp, fun _ => .inl rfl⟩

theorem Served.trans {s t u : State} (h : Served s t) (k : Served t u) : Served s u := by
  obtain ⟨hc, hp, hl, hr, hn, as, hta, hs⟩ := h
  obtain ⟨kc, kp, kl, kr, kn, bs, ktb, ks⟩ := k
  refine ⟨kc.trans hc, kp.trans hp, kl.trans hl, kr.trans hr, kn.trans hn, as ++ bs, by simp [ktb, hta], fun i => ?_⟩
  rcases ks i with e | ⟨sl, g, h1, h2, h3, h4⟩
  · rcases hs i with e' | ⟨sl, g, h1, h2, h3, h4⟩
    · exact .inl (e.trans e')
    · exact .inr ⟨sl, g, h1, h2, e.trans h3, by simp [h4]⟩
  · rcases hs i with e' | ⟨sl', g', h1', _, h3', _⟩
    · exact .inr ⟨sl, g, e' ▸ h1, h2, h3, by simp [h4]⟩
    · rw [h3'] at h1; cases h1; simp at h2

theorem served_emit (a : Action) (s : State) : Served s (s.emit a) :=
  ⟨rfl, rfl, rfl, rfl, rfl, [a], rfl, fun _ => .inl rfl⟩

theorem served_afterDraw (s : State) : Served s s.afterDraw :=
  ⟨rfl, rfl, rfl, rfl, rfl, [], by simp, fun _ => .inl rfl⟩

theorem State.isActive_iff {s : State} {i : Nat} :
    s.isActive i = true ↔ ∃ sl, s.slots[i]? = some sl ∧ sl.active = true := by
  unfold State.isActive; split <;> simp_all

theorem State.deactivate_slots_get (i j : Nat) (s : State) :
    (s.deactivate i).slots[j]? = if i = j then s.slots[j]?.map Slot.deactivated else s.slots[j]? := by
  simp [List.getElem?_modify]; split <;> simp_all

theorem served_writeSlot (f : List Byte) {i : Nat} {s : State} (h : s.isActive i = true) :
    Served s (s.writeSlot f i) := by
  unfold State.writeSlot
  cases hn : s.nextAnswer with
  | true => exact (served_afterDraw s).trans (served_emit _ _)
  | false =>
    obtain ⟨sl, hsl, ha⟩ := State.isActive_iff.1 h
    refine ⟨rfl, rfl, rfl, rfl, by simp [State.nSlots, State.afterDraw, State.emit], [.write i f false], rfl,
      fun j => ?_⟩
    simp only [Bool.false_eq_true, if_false, State.deactivate_slots_get]
    split
    · subst_vars; exact .inr ⟨sl, f, hsl, ha, by simp [hsl], by simp⟩
    · exact .inl rfl

theorem served_broadcastSlot (f : List Byte) (s : State) (i : Nat) : Served s (s.broadcastSlot f i) := by
  unfold State.broadcastSlot
  split
  case isTrue h =>
    split
    · exact (served_afterDraw s).trans (served_writeSlot f (by simpa [State.isActive] using h))
    · exact served_afterDraw s
  case isFalse => exact .refl s

/-- A loop of served steps is served. -/
theorem served_foldl {α : Type} {g : State → α → State} (hg : ∀ s a, Served s (g s a)) (l : List α) (s : State) :
    Served s (l.foldl g s) := by
  induction l generalizing s with
  | nil => exact .refl s
  | cons a l ih => exact (hg s a).trans (ih _)

theorem served_broadcast (f : List Byte) (s : State) : Served s (s.broadcast f) :=
  served_foldl (served_broadcastSlot f) _ s

theorem served_broadcastAll (fs : List (List Byte)) (s : State) : Served s (s.broadcastAll fs) :=
  served_foldl (fun s f => served_broadcast f s) fs s

theorem served_emitLog (l : Option LogEntry) (s : State) : Served s (s.emitLog l) := by
  cases l with
  | none => exact .refl s
  | some e => exact served_emit _ s

theorem served_sysqPath (f : List Byte) (s : State) : Served s (s.sysqPath f) :=
  (served_emitLog _ s).trans (served_broadcastAll _ _)

theorem served_transmit (m : CanMsg) (s : State) : Served s (s.transmit m) := by
  unfold State.transmit
  split
  · exact (served_afterDraw s).trans (served_emit _ _)
  · exact ((served_afterDraw s).trans (served_emit _ _)).trans (served_emit _ _)

theorem served_canFramePath (f : List Byte) (s : State) : Served s (s.canFramePath f) := by
  unfold State.canFramePath
  split
  · exact served_transmit _ s
  · exact .refl s

theorem served_clientFrame (f : List Byte) (s : State) : Served s (s.clientFrame f) := by
  unfold State.clientFrame
  split
  · exact (served_emit _ s).trans (served_canFramePath f _)
  split
  · exact served_sysqPath f s
  split
  · exact served_emit _ s
  · exact served_emit _ s

/-! ## Bytes of a connection (43_broadcast_paths R207) -/

/-- `PARSE_BYTE` on a slot that exists. -/
theorem State.parseByte_of_get {s : State} {i : Nat} {sl : Slot} (h : s.slots[i]? = some sl) (b : Byte) :
    s.parseByte i b = (s.setSlot i { sl with parser := (sl.parser.feed s.cfg b).1 }, (sl.parser.feed s.cfg b).2) := by
  simp [State.parseByte, h]

/-- A byte for an inactive slot, or for none, is discarded (R215). -/
theorem State.receiveByte_of_inactive {s : State} {k : Nat} (h : s.isActive k = false) (b : Byte) :
    s.receiveByte k b = s := by
  simp [State.receiveByte, h]

/-- What one byte for an active slot does: the slot's parser is fed, then a completed frame is dispatched. -/
theorem State.receiveByte_cases {s : State} {k : Nat} {b : Byte} {sl : Slot} (h : s.slots[k]? = some sl)
    (ha : sl.active = true) :
    (∃ f, (sl.parser.feed s.cfg b).2 = some f ∧
      s.receiveByte k b = (s.setSlot k { sl with parser := (sl.parser.feed s.cfg b).1 }).clientFrame f) ∨
    ((sl.parser.feed s.cfg b).2 = none ∧
      s.receiveByte k b = s.setSlot k { sl with parser := (sl.parser.feed s.cfg b).1 }) := by
  have hk : s.isActive k = true := State.isActive_iff.2 ⟨sl, h, ha⟩
  simp only [State.receiveByte, hk, if_true, State.parseByte_of_get h]
  cases (sl.parser.feed s.cfg b).2 with
  | none => exact .inr ⟨rfl, rfl⟩
  | some f => exact .inl ⟨f, rfl, rfl⟩

/-- The bytes one after the other (R207). -/
theorem State.receiveBytes_cons (k : Nat) (b : Byte) (bs : List Byte) (s : State) :
    s.receiveBytes k (b :: bs) = (s.receiveByte k b).receiveBytes k bs := rfl

end Sys2Proof.Machine
end

