-- ==== Sys2Proof/Laws/Operands.lean ====
section
/-! SUPPORT. The identifier layouts and the frame builders, each function's facts said once (30_encoding R73,
R76 to R79). -/

namespace Sys2Proof.Machine

/-- A place the list does not name stays 0. -/
theorem scatter_getLsbD_of_not_mem {n : Nat} (v : BitVec n) {j : Nat} :
    ∀ (k : Nat) (ps : List Nat), j ∉ ps → (scatter v k ps).getLsbD j = false
  | _, [], _ => by simp [scatter]
  | k, p :: ps, h => by
    simp only [List.mem_cons, not_or] at h
    have hp : (BitVec.twoPow 16 p).getLsbD j = false := by simp [BitVec.getLsbD_twoPow]; omega
    simp only [scatter, BitVec.getLsbD_or, scatter_getLsbD_of_not_mem v (k + 1) ps h.2, Bool.or_false]
    split
    · exact hp
    · simp

/-- A place the list names holds the bit it was given, when no place is named twice. -/
theorem scatter_getLsbD {n : Nat} (v : BitVec n) :
    ∀ (k : Nat) (ps : List Nat), ps.Nodup → ∀ (i : Nat) (hi : i < ps.length), ps[i] < 16 →
      (scatter v k ps).getLsbD ps[i] = v.getLsbD (k + i)
  | _, [], _, i, hi, _ => by simp at hi
  | k, p :: ps, hnd, 0, _, hp => by
    obtain ⟨hmem, -⟩ := List.nodup_cons.1 hnd
    simp only [List.getElem_cons_zero] at hp ⊢
    simp only [scatter, BitVec.getLsbD_or, scatter_getLsbD_of_not_mem v (k + 1) ps hmem, Bool.or_false, Nat.add_zero]
    cases v.getLsbD k <;> simp [hp]
  | k, p :: ps, hnd, i + 1, hi, hp => by
    obtain ⟨hmem, hnd'⟩ := List.nodup_cons.1 hnd
    simp only [List.getElem_cons_succ] at hp ⊢
    have hi' : i < ps.length := by simpa using hi
    have hne : p ≠ ps[i] := fun e => hmem (e ▸ List.getElem_mem hi')
    have h0 : (BitVec.twoPow 16 p).getLsbD ps[i] = false := by simp [BitVec.getLsbD_twoPow, hne]
    have ih := scatter_getLsbD v (k + 1) ps hnd' i hi' hp
    simp only [scatter, BitVec.getLsbD_or, ih]
    rw [show k + 1 + i = k + (i + 1) by omega]
    split <;> simp [h0]

/-- The bits read are the bits at the places listed; below the first one they are 0. -/
theorem gather_getLsbD (n : Nat) (w : BitVec 16) :
    ∀ (k : Nat) (ps : List Nat) (j : Nat), j < n →
      (gather n w k ps).getLsbD j =
        (decide (k ≤ j) && (ps[j - k]?.map (fun p => w.getLsbD p)).getD false)
  | k, [], j, _ => by simp [gather]
  | k, p :: ps, j, hj => by
    have ih := gather_getLsbD n w (k + 1) ps j hj
    simp only [gather, BitVec.getLsbD_or, ih]
    rcases Nat.lt_trichotomy j k with h | h | h
    · have h1 : ¬ k ≤ j := by omega
      have h2 : ¬ k + 1 ≤ j := by omega
      have h3 : (BitVec.twoPow n k).getLsbD j = false := by simp [BitVec.getLsbD_twoPow]; omega
      split <;> simp [h1, h2, h3]
    · subst h
      cases hw : w.getLsbD p <;> simp [hj, hw]
    · have h1 : k ≤ j := by omega
      have h2 : k + 1 ≤ j := by omega
      have h3 : (BitVec.twoPow n k).getLsbD j = false := by simp [BitVec.getLsbD_twoPow]; omega
      have h4 : j - k = (j - (k + 1)) + 1 := by omega
      rw [h4, List.getElem?_cons_succ]
      split <;> simp [h1, h2, h3]

/-- Reading back what was put at places of their own gives the value back. -/
theorem gather_scatter {n : Nat} (v : BitVec n) (ps : List Nat) (hnd : ps.Nodup) (hlen : ps.length = n)
    (hlt : ∀ p ∈ ps, p < 16) : gather n (scatter v 0 ps) 0 ps = v := by
  refine BitVec.eq_of_getLsbD_eq fun j hj => ?_
  have hj' : j < ps.length := by omega
  have hs := scatter_getLsbD v 0 ps hnd j hj' (hlt _ (List.getElem_mem hj'))
  simp [gather_getLsbD n _ 0 ps j hj, hj', hs]

/-- A 16-bit word is its two bytes. -/
theorem upperByte_append_lowerByte (w : BitVec 16) : (upperByte w ++ lowerByte w : BitVec 16) = w := by
  refine BitVec.eq_of_getLsbD_eq fun j hj => ?_
  simp only [upperByte, lowerByte, BitVec.getLsbD_append, BitVec.getLsbD_extractLsb]
  by_cases h : j < 8
  · simp [h]
  · have h1 : 8 + (j - 8) = j := by omega
    have h2 : j - 8 < 8 := by omega
    simp [h, h1, h2]

/-- An identifier is its upper and its lower half (30_encoding R78 L3). -/
theorem upperHalf_append_lowerHalf (id : Ident) : (id.extractLsb 28 16 ++ id.extractLsb 15 0 : BitVec 29) = id := by
  refine BitVec.eq_of_getLsbD_eq fun j hj => ?_
  simp only [BitVec.getLsbD_append, BitVec.getLsbD_extractLsb]
  by_cases h : j < 16
  · simp [h]
  · have h1 : 16 + (j - 16) = j := by omega
    have h2 : j - 16 < 13 := by omega
    simp [h, h1, h2]

/-- Words joined alike are alike. -/
theorem append_eq_append_iff {n m : Nat} {a a' : BitVec n} {b b' : BitVec m} :
    a ++ b = a' ++ b' ↔ a = a' ∧ b = b' := by
  refine ⟨fun h => ⟨?_, ?_⟩, fun ⟨ha, hb⟩ => by rw [ha, hb]⟩
  · refine BitVec.eq_of_getLsbD_eq fun j hj => ?_
    simpa [BitVec.getLsbD_append] using congrArg (fun x => x.getLsbD (m + j)) h
  · refine BitVec.eq_of_getLsbD_eq fun j hj => ?_
    simpa [BitVec.getLsbD_append, hj] using congrArg (fun x => x.getLsbD j) h

/-- The list holds the value of a function at every key it lists; a key it lists is found with that value. -/
theorem lookup_of_forall {α β : Type} [BEq α] [LawfulBEq α] {F : α → β} {k : α} :
    ∀ {ps : List (α × β)}, (∀ q ∈ ps, q.2 = F q.1) → k ∈ ps.map Prod.fst → ps.lookup k = some (F k)
  | [], _, hk => by simp at hk
  | (a, b) :: ps, h, hk => by
    by_cases he : k = a
    · subst he
      simpa using h (k, b) (by simp)
    · have hk' : k ∈ ps.map Prod.fst := by simpa [he] using hk
      rw [List.lookup_cons, beq_false_of_ne he]
      exact lookup_of_forall (fun q hq => h q (List.mem_cons_of_mem _ hq)) hk'

/-- A value a list without repeats holds at a place is found at that place. -/
theorem ofNat_idxOf {n m : Nat} {ps : List (BitVec m)} (hnd : ps.Nodup) (hlen : ps.length = 2 ^ n) (v : BitVec n) :
    ps.contains (ps.getD v.toNat 0#m) = true ∧ BitVec.ofNat n (ps.idxOf (ps.getD v.toNat 0#m)) = v := by
  have hv : v.toNat < ps.length := hlen ▸ v.isLt
  have hg : ps.getD v.toNat 0#m = ps[v.toNat] := by simp [List.getD_eq_getElem?_getD, hv]
  rw [hg]
  exact ⟨by simp, by rw [hnd.idxOf_getElem]; simp⟩

/-- What `IdTable.ok` says. -/
theorem IdTable.ok_iff (t : IdTable) :
    t.ok = true ↔ t.hi.length = 2 ^ 13 ∧ t.lo.length = 2 ^ 16 ∧ t.hi.Nodup ∧ t.lo.Nodup := by
  simp [IdTable.ok, and_assoc]

/-- What `IdLayout.ok` says. -/
theorem IdLayout.ok_iff (l : IdLayout) : l.ok = true ↔
    l.hi.length = 13 ∧ l.lo.length = 16 ∧ (∀ p ∈ l.hi, p < 16) ∧ (∀ p ∈ l.lo, p < 16) ∧ l.hi.Nodup ∧ l.lo.Nodup := by
  simp [IdLayout.ok, and_assoc]

/-- A data field has eight bytes, whatever the DLC (30_encoding R79). -/
theorem dataField_length (m : CanMsg) : (dataField m).length = 8 := by
  simp [dataField]

/-- An encoded frame has 15 bytes, whatever the DLC (41_codec R133). -/
theorem encodeMsg_length (c : Config) (m : CanMsg) : (encodeMsg c m).length = 15 := by
  simp [encodeMsg, frameBody, packIdent, dataField_length]

/-- `DECODE` of 15 bytes, and of any other number (41_codec R134). -/
theorem decodeMsg_of_length {p : IdPacking} {f : List Byte} (h : f.length = 15) :
    decodeMsg p f = .ok (messageOf p f) := by simp [decodeMsg, h]

theorem decodeMsg_of_length_ne {p : IdPacking} {f : List Byte} (h : f.length ≠ 15) :
    decodeMsg p f = .fail .badLength := by simp [decodeMsg, h]

/-- The checksum does not read byte 0, byte 13 or later ones (30_encoding R74). -/
theorem cks_append_of_length {f g : List Byte} (h : f.length = 13) : cks (f ++ g) = cks f := by
  have : ((f ++ g).drop 1).take 12 = (f.drop 1).take 12 := by
    rw [List.drop_append_of_le_length (by omega), List.take_append_of_le_length (by simp; omega)]
  rw [cks, this, cks]

end Sys2Proof.Machine
end

