-- ==== Sys2Proof/Laws/Parser.lean ====
section
/-! SUPPORT. What one byte can do to a parser (40_parser R100), said once. -/

namespace Sys2Proof.Machine

theorem Parser.feed_wait_start {c : Config} {p : Parser} {b : Byte} (h : p.st = .wait) (hb : b = c.startMarker) :
    p.feed c b = ({ st := .collecting, idx := 1, buf := p.buf.set 0 b }, none) := by
  simp [Parser.feed, h, hb]

theorem Parser.feed_wait_other {c : Config} {p : Parser} {b : Byte} (h : p.st = .wait) (hb : b ≠ c.startMarker) :
    p.feed c b = (p, none) := by
  simp [Parser.feed, h, hb]

theorem Parser.feed_ready {c : Config} {p : Parser} {b : Byte} (h : p.st = .collecting) (hi : p.idx < 16)
    (hr : frameReady c (p.idx + 1) b = true) :
    p.feed c b = ({ st := .wait, idx := p.idx + 1, buf := p.buf.set p.idx b },
      some ((p.buf.set p.idx b).toList.take (p.idx + 1))) := by
  simp [Parser.feed, h, hi, hr]

theorem Parser.feed_more {c : Config} {p : Parser} {b : Byte} (h : p.st = .collecting) (hi : p.idx < 15)
    (hr : frameReady c (p.idx + 1) b = false) :
    p.feed c b = ({ st := .collecting, idx := p.idx + 1, buf := p.buf.set p.idx b }, none) := by
  have h1 : ¬ 15 < p.idx + 1 := by omega
  have h2 : p.idx < 16 := by omega
  simp [Parser.feed, h, h2, hr, overflowed, h1]

theorem Parser.feed_overflow {c : Config} {p : Parser} {b : Byte} (h : p.st = .collecting) (hi : p.idx = 15)
    (hr : frameReady c (p.idx + 1) b = false) :
    p.feed c b = ({ st := .wait, idx := 16, buf := p.buf.set p.idx b }, none) := by
  rw [hi] at hr
  simp [Parser.feed, h, hr, overflowed, hi]

theorem Parser.feed_full {c : Config} {p : Parser} {b : Byte} (h : p.st = .collecting) (hi : 16 ≤ p.idx) :
    p.feed c b = ({ p with st := .wait }, none) := by
  have h2 : ¬ p.idx < 16 := by omega
  simp [Parser.feed, h, h2]

/-- Every case of a byte, with what it gives. -/
theorem Parser.feed_cases (c : Config) (p : Parser) (b : Byte) :
    (p.st = .wait ∧ b = c.startMarker ∧
      p.feed c b = ({ st := .collecting, idx := 1, buf := p.buf.set 0 b }, none)) ∨
    (p.st = .wait ∧ b ≠ c.startMarker ∧ p.feed c b = (p, none)) ∨
    (∃ h : p.idx < 16, p.st = .collecting ∧ frameReady c (p.idx + 1) b = true ∧
      p.feed c b = ({ st := .wait, idx := p.idx + 1, buf := p.buf.set p.idx b },
        some ((p.buf.set p.idx b).toList.take (p.idx + 1)))) ∨
    (∃ h : p.idx < 15, p.st = .collecting ∧ frameReady c (p.idx + 1) b = false ∧
      p.feed c b = ({ st := .collecting, idx := p.idx + 1, buf := p.buf.set p.idx b }, none)) ∨
    (∃ h : p.idx = 15, p.st = .collecting ∧ frameReady c (p.idx + 1) b = false ∧
      p.feed c b = ({ st := .wait, idx := 16, buf := p.buf.set p.idx b }, none)) ∨
    (16 ≤ p.idx ∧ p.st = .collecting ∧ p.feed c b = ({ p with st := .wait }, none)) := by
  cases hst : p.st with
  | wait =>
    by_cases hb : b = c.startMarker
    · exact .inl ⟨rfl, hb, feed_wait_start hst hb⟩
    · exact .inr (.inl ⟨rfl, hb, feed_wait_other hst hb⟩)
  | collecting =>
    by_cases hf : 16 ≤ p.idx
    · exact .inr (.inr (.inr (.inr (.inr ⟨hf, rfl, feed_full hst hf⟩))))
    have h16 : p.idx < 16 := by omega
    cases hr : frameReady c (p.idx + 1) b with
    | true => exact .inr (.inr (.inl ⟨h16, rfl, rfl, feed_ready hst h16 hr⟩))
    | false =>
      by_cases h15 : p.idx = 15
      · exact .inr (.inr (.inr (.inr (.inl ⟨h15, rfl, rfl, feed_overflow hst h15 hr⟩))))
      · have : p.idx < 15 := by omega
        exact .inr (.inr (.inr (.inl ⟨this, rfl, rfl, feed_more hst this hr⟩)))

/-- An appended byte extends the collected bytes (40_parser R100). -/
theorem Parser.take_append {p : Parser} {b : Byte} (h : p.idx < 16) :
    (p.buf.set p.idx b).toList.take (p.idx + 1) = p.buf.toList.take p.idx ++ [b] := by
  rw [Vector.toList_set, List.take_add_one]
  simp [h, List.take_set_of_le]

/-- A reset parser meets the invariant. -/
theorem Parser.clear_ok (c : Config) (p : Parser) : p.clear.Ok c := by simp [Parser.Ok]

end Sys2Proof.Machine
end

