-- ==== Sys2Proof/Laws/PerInstr.lean ====
section
/-! SUPPORT. One statement about every instruction as syntax, by constructor: an operation is encoded as a
transaction that begins with its tcode (30_encoding R88), a frame kind as a wire frame of 30_encoding R70. -/

namespace Sys2Proof.Laws.EncodedShape

/-- A delivery of the shape an instruction has: a transaction with the tcode, or a wire frame. -/
def Shaped (c : Config) : Option Tcode → Delivery → Prop
  | some t, .transaction bs => bs.head? = some t.code
  | none, .wireFrame f => isWireFrame c f = true
  | some _, .wireFrame _ => False
  | none, .transaction _ => False

/-- The encoding has the instruction's shape, under every configuration. -/
def Statement (i : Instr) : Prop := ∀ c : Config, Shaped c (tcodeOf i) (encode c i)

/-- The frames the encoder builds are wire frames. -/
theorem isWireFrame_frame5 (c : Config) (node cmd param : Byte) : isWireFrame c (frame5 c node cmd param) = true := by
  simp [isWireFrame, frame5]

theorem isWireFrame_frame13 (c : Config) (body : Vector Byte 11) : isWireFrame c (frame13 c body) = true := by
  simp [isWireFrame, frame13, List.getLast?_append, List.getLast?_cons]

theorem isWireFrame_frame15 (c : Config) (id1 id2 id3 id4 : Byte) (d : Vector Byte 8) (ck : Byte) :
    isWireFrame c (frame15 c id1 id2 id3 id4 d ck) = true := by
  simp [isWireFrame, frame15, List.getLast?_append, List.getLast?_cons]

theorem canFrame (id1 id2 id3 id4 : Byte) (d : Vector Byte 8) (ck : Byte) : Statement (.canFrame id1 id2 id3 id4 d ck) :=
  fun c => isWireFrame_frame15 c id1 id2 id3 id4 d ck
theorem sysqHwType (param : Byte) : Statement (.sysqHwType param) := fun c => isWireFrame_frame5 c _ _ _
theorem sysqFwType (param : Byte) : Statement (.sysqFwType param) := fun c => isWireFrame_frame5 c _ _ _
theorem sysqDescription (param : Byte) : Statement (.sysqDescription param) := fun c => isWireFrame_frame5 c _ _ _
theorem sysqSupplyVoltage (param : Byte) : Statement (.sysqSupplyVoltage param) := fun c => isWireFrame_frame5 c _ _ _
theorem sysqUnknown (selector param : Byte) : Statement (.sysqUnknown selector param) :=
  fun c => isWireFrame_frame5 c _ _ _
theorem shortUnrecognized (node cmd param : Byte) : Statement (.shortUnrecognized node cmd param) :=
  fun c => isWireFrame_frame5 c _ _ _
theorem reservedF13 (body : Vector Byte 11) : Statement (.reservedF13 body) := fun c => isWireFrame_frame13 c body
theorem evConnect : Statement .evConnect := fun _ => rfl
theorem evBytes (k : Nat) (bytes : List Byte) : Statement (.evBytes k bytes) := fun _ => rfl
theorem evClosed (k : Nat) : Statement (.evClosed k) := fun _ => rfl
theorem evCanRx (m : CanMsg) : Statement (.evCanRx m) := fun _ => rfl
theorem checksum (f : List Byte) : Statement (.checksum f) := fun _ => rfl
theorem idPack (id : Ident) : Statement (.idPack id) := fun _ => rfl
theorem idUnpack (b1 b2 b3 b4 : Byte) : Statement (.idUnpack b1 b2 b3 b4) := fun _ => rfl
theorem encode (m : CanMsg) : Statement (.encode m) := fun _ => rfl
theorem decode (f : List Byte) : Statement (.decode f) := fun _ => rfl
theorem validate (f : List Byte) : Statement (.validate f) := fun _ => rfl
theorem decodeStrict (f : List Byte) : Statement (.decodeStrict f) := fun _ => rfl
theorem parseByte (i : Nat) (b : Byte) : Statement (.parseByte i b) := fun _ => rfl
theorem resetParser (i : Nat) : Statement (.resetParser i) := fun _ => rfl
theorem respond (f : List Byte) : Statement (.respond f) := fun _ => rfl
theorem broadcast (f : List Byte) : Statement (.broadcast f) := fun _ => rfl
theorem clientFrame (k : Nat) (f : WireFrame) : Statement (.clientFrame k f) := fun _ => rfl
theorem deactivate (i : Nat) : Statement (.deactivate i) := fun _ => rfl

end Sys2Proof.Laws.EncodedShape
end

