-- ==== Sys2Proof/Laws/Result.lean ====
section
/-! SUPPORT. No operation reads the last result: each commutes with writing it (10_state R32: what an operation
returns is no input of a later one). -/

namespace Sys2Proof.Machine

theorem State.broadcastSlot_setResult (r : Result) (f : List Byte) (s : State) (i : Nat) :
    (s.setResult r).broadcastSlot f i = (s.broadcastSlot f i).setResult r := by
  have ha : (s.setResult r).isActive i = s.isActive i := rfl
  have hn : (s.setResult r).nextAnswer = s.nextAnswer := rfl
  have hm : (s.setResult r).afterDraw.nextAnswer = s.afterDraw.nextAnswer := rfl
  simp only [State.broadcastSlot, State.writeSlot, ha, hn, hm]
  split <;> [split <;> [split <;> rfl; rfl]; rfl]

/-- A loop of operations that do not read the result does not read it. -/
theorem foldl_setResult {α : Type} {g : State → α → State} {r : Result}
    (hg : ∀ s a, g (s.setResult r) a = (g s a).setResult r) (l : List α) (s : State) :
    l.foldl g (s.setResult r) = (l.foldl g s).setResult r := by
  induction l generalizing s with
  | nil => rfl
  | cons a l ih => simp only [List.foldl_cons, hg, ih]

theorem State.broadcast_setResult (r : Result) (f : List Byte) (s : State) :
    (s.setResult r).broadcast f = (s.broadcast f).setResult r :=
  foldl_setResult (fun s i => s.broadcastSlot_setResult r f i) _ s

theorem State.sysqPath_setResult (r : Result) (f : List Byte) (s : State) :
    (s.setResult r).sysqPath f = (s.sysqPath f).setResult r := by
  have h : (s.setResult r).emitLog (respondTo s.cfg f).2 = (s.emitLog (respondTo s.cfg f).2).setResult r := by
    cases (respondTo s.cfg f).2 <;> rfl
  simp only [State.sysqPath, State.setResult_cfg, h]
  exact foldl_setResult (fun s f => s.broadcast_setResult r f) _ _

theorem State.transmit_setResult (r : Result) (m : CanMsg) (s : State) :
    (s.setResult r).transmit m = (s.transmit m).setResult r := by
  have hn : (s.setResult r).nextAnswer = s.nextAnswer := rfl
  simp only [State.transmit, hn]
  split <;> rfl

theorem State.canFrame_setResult (r : Result) (f : List Byte) (s : State) :
    (s.setResult r).canFrame f = (s.canFrame f).setResult r := by
  simp only [State.canFrame, State.canFramePath, State.emit_cfg, State.setResult_cfg]
  split
  · exact State.transmit_setResult r _ (s.emit (.notify .netToBus f))
  · rfl

theorem State.clientFrame_setResult (r : Result) (f : List Byte) (s : State) :
    (s.setResult r).clientFrame f = (s.clientFrame f).setResult r := by
  simp only [State.clientFrame, State.setResult_cfg, State.canFrame_setResult, State.sysqPath_setResult]
  split_ifs <;> rfl

/-- A byte is received alike whatever was returned before. -/
theorem State.receiveByte_setResult (r : Result) (k : Nat) (s : State) (b : Byte) :
    (s.setResult r).receiveByte k b = (s.receiveByte k b).setResult r := by
  have ha : (s.setResult r).isActive k = s.isActive k := rfl
  have hp : (s.setResult r).parseByte k b = ((s.parseByte k b).1.setResult r, (s.parseByte k b).2) := by
    unfold State.parseByte
    simp only [State.setResult_slots, State.setResult_cfg]
    split <;> rfl
  unfold State.receiveByte
  rw [ha, hp]
  split
  · obtain ⟨t, o⟩ := s.parseByte k b
    cases o with
    | none => rfl
    | some f => exact t.clientFrame_setResult r f
  · rfl

/-- Bytes are received alike whatever was returned before. -/
theorem State.receiveBytes_setResult (r : Result) (k : Nat) (bytes : List Byte) (s : State) :
    (s.setResult r).receiveBytes k bytes = (s.receiveBytes k bytes).setResult r :=
  foldl_setResult (fun s b => s.receiveByte_setResult r k b) bytes s

end Sys2Proof.Machine
end

