-- ==== Sys2Proof/Laws/Step.lean ====
section
/-! SUPPORT. What every instruction leaves as it was, and the cases of a step that answers a next state, each said
once, so that no proof about steps unfolds `step` or all of `exec` again. -/

namespace Sys2Proof.Machine

/-- What every instruction keeps: the configuration and the capacity (00_scope R9, 43_broadcast_paths R200), what is
still to run, and the actions already issued (10_state R30). -/
structure Kept (s t : State) : Prop where
  cfg : t.cfg = s.cfg
  pending : t.pending = s.pending
  call : t.call = s.call
  nSlots : t.nSlots = s.nSlots
  trace : ∃ as, t.trace = s.trace ++ as

theorem Kept.refl (s : State) : Kept s s := ⟨rfl, rfl, rfl, rfl, [], by simp⟩

theorem Kept.trans {s t u : State} (h : Kept s t) (k : Kept t u) : Kept s u := by
  obtain ⟨hc, hp, hl, hn, as, ha⟩ := h
  obtain ⟨kc, kp, kl, kn, bs, hb⟩ := k
  exact ⟨kc.trans hc, kp.trans hp, kl.trans hl, kn.trans hn, as ++ bs, by simp [hb, ha]⟩

theorem Served.kept {s t : State} (h : Served s t) : Kept s t :=
  ⟨h.cfg, h.pending, h.call, h.nSlots, h.slots.imp fun _ h => h.1⟩

theorem kept_setResult (r : Result) (s : State) : Kept s (s.setResult r) := ⟨rfl, rfl, rfl, rfl, [], by simp⟩

theorem kept_setSlot (i : Nat) (sl : Slot) (s : State) : Kept s (s.setSlot i sl) :=
  ⟨rfl, rfl, rfl, by simp, [], by simp⟩

theorem kept_modifySlot (i : Nat) (g : Slot → Slot) (s : State) : Kept s (s.modifySlot i g) :=
  ⟨rfl, rfl, rfl, by simp, [], by simp⟩

theorem kept_parseByte (i : Nat) (b : Byte) (s : State) : Kept s (s.parseByte i b).1 := by
  cases h : s.slots[i]? with
  | none => simpa only [State.parseByte, h] using Kept.refl s
  | some sl => rw [State.parseByte_of_get h]; exact kept_setSlot _ _ s

theorem kept_receiveByte (k : Nat) (s : State) (b : Byte) : Kept s (s.receiveByte k b) := by
  cases ha : s.isActive k with
  | false => rw [State.receiveByte_of_inactive ha]; exact .refl s
  | true =>
    obtain ⟨sl, h, ha⟩ := State.isActive_iff.1 ha
    rcases State.receiveByte_cases (b := b) h ha with ⟨f, -, e⟩ | ⟨-, e⟩ <;> rw [e]
    · exact (kept_setSlot _ _ s).trans (served_clientFrame f _).kept
    · exact kept_setSlot _ _ s

theorem kept_receiveBytes (k : Nat) (bytes : List Byte) (s : State) : Kept s (s.receiveBytes k bytes) := by
  induction bytes generalizing s with
  | nil => exact .refl s
  | cons b bs ih => exact (kept_receiveByte k s b).trans (ih _)

/-- An operation on a slot that answers a next state is on a slot that exists, and that is its answer. -/
theorem State.onSlot_next {s t : State} {i : Nat} {a : Answer} (h : s.onSlot i a = .next t) :
    i < s.nSlots ∧ a = .next t := by
  unfold State.onSlot at h
  split at h
  · exact ⟨by assumption, h⟩
  · cases h

theorem State.returning_next {s t : State} {r : Result} (h : s.returning r = .next t) : t = s.setResult r := by
  cases h
  rfl

/-- Whatever an operation kept is kept when its result is returned. -/
theorem Kept.returning {s u t : State} {r : Result} (hk : Kept s u) (h : u.returning r = .next t) : Kept s t := by
  rw [State.returning_next h]
  exact hk.trans (kept_setResult r u)

/-- Every instruction keeps these. -/
theorem kept_exec {i : Instr} {s t : State} (h : exec i s = .next t) : Kept s t := by
  cases i <;> simp only [exec] at h
  case canFrame => exact ((served_emit _ s).trans (served_canFramePath _ _)).kept.returning h
  case sysqHwType => exact (served_sysqPath _ s).kept.returning h
  case sysqFwType => exact (served_sysqPath _ s).kept.returning h
  case sysqDescription => exact (served_sysqPath _ s).kept.returning h
  case sysqSupplyVoltage => exact (served_sysqPath _ s).kept.returning h
  case sysqUnknown => exact (served_sysqPath _ s).kept.returning h
  case shortUnrecognized => exact (served_emit _ s).kept.returning h
  case reservedF13 => exact (served_emit _ s).kept.returning h
  case evConnect =>
    unfold execEvConnect at h
    split at h
    · exact (kept_modifySlot _ _ s).returning h
    · exact (served_emit _ s).kept.returning h
  case evBytes => exact (kept_receiveBytes _ _ s).returning (State.onSlot_next h).2
  case evClosed =>
    refine Kept.returning ?_ (State.onSlot_next h).2
    split
    · exact kept_modifySlot _ _ s
    · exact .refl s
  case evCanRx => exact ((served_emit _ s).trans (served_broadcast _ _)).kept.returning h
  case checksum =>
    unfold execChecksum at h
    split at h
    · exact (Kept.refl s).returning h
    · cases h
  case idPack => exact (Kept.refl s).returning h
  case idUnpack => exact (Kept.refl s).returning h
  case encode => exact (Kept.refl s).returning h
  case decode => exact (Kept.refl s).returning h
  case validate => exact (Kept.refl s).returning h
  case decodeStrict => exact (Kept.refl s).returning h
  case parseByte => exact (kept_parseByte _ _ s).returning (State.onSlot_next h).2
  case resetParser => exact (kept_modifySlot _ _ s).returning (State.onSlot_next h).2
  case respond => exact (Kept.refl s).returning h
  case broadcast => exact (served_broadcast _ s).kept.returning h
  case clientFrame => exact (served_clientFrame _ s).kept.returning h
  case deactivate => exact (kept_modifySlot _ _ s).returning (State.onSlot_next h).2

/-- A step that answers a next state idled, ran what was to be tried by itself, or ran a delivery. -/
theorem step_next_cases {s t : State} (h : step s = .next t) :
    (t = s ∧ s.call = none ∧ s.pending = []) ∨
    (∃ d i, s.call = some d ∧ decode s.cfg d = .ok i ∧ exec i s.clearCall = .next t) ∨
    (∃ bs rest i, s.call = none ∧ s.pending = bs :: rest ∧ decodeInput bs = .ok i ∧ exec i s.popPending = .next t) := by
  unfold step State.fetch at h
  cases hl : s.call with
  | some d =>
    cases hc : s.configOk
    · simp [hl, hc] at h
    · cases hd : decode s.cfg d with
      | error e => simp [hl, hc, hd] at h
      | ok i => exact .inr (.inl ⟨d, i, rfl, hd, by simpa [hl, hc, hd] using h⟩)
  | none =>
    cases hp : s.pending with
    | nil =>
      cases hc : s.configOk
      · simp [hl, hc, hp] at h
      · exact .inl ⟨by simpa [hl, hc, hp, eq_comm] using h, rfl, rfl⟩
    | cons bs rest =>
      cases hc : s.configOk
      · simp [hl, hc, hp] at h
      · cases hd : decodeInput bs with
        | error e => simp [hl, hc, hp, hd] at h
        | ok i => exact .inr (.inr ⟨bs, rest, i, rfl, rfl, hd, by simpa [hl, hc, hp, hd] using h⟩)

end Sys2Proof.Machine
end

