-- ==== Sys2Proof/Tests/Slice0.lean ====
section
/-! SUPPORT. Tests of the model on single steps, their expected results taken from the spec (the vectors of
95_test_vectors are named where they are used), the ill-formed terms the checks refuse, and one witness for the
hypotheses of each obligation that has some. -/

namespace Sys2Proof.Tests

open Sys2Proof Sys2Proof.Machine

/-! ## A small machine -/

/-- A canned frame that begins and ends as R86 requires; its checksum, the sum of bytes 1 to 12, is `n`. -/
def canned (n : Byte) : List Byte := [0xAA, n, 0, 0, 0, 0, 0, 0, 0, 0, 0, 0, 0, n, 0xA5]

/-- The default parameters of 00_scope R7 with canned frames of known bytes. -/
def cfg : Config :=
  { Config.default with
    cannedHw := canned 1, cannedFw := canned 2, cannedDesc1 := canned 3, cannedDesc2 := canned 4
    cannedVolt := canned 5 }

/-- A slot with a parser in `WAIT`. -/
def waiting (active : Bool) : Slot := { active := active, parser := Parser.reset }

/-- A slot that has collected the start marker and zeros up to `idx`. -/
def collecting (active : Bool) (idx : Nat) : Slot :=
  { active := active, parser := { st := .collecting, idx := idx, buf := (Vector.replicate 16 0#8).set 0 0xAA } }

/-- A machine with the given slots and oracle answers. -/
def machine (slots : List Slot) (answers : List Bool) : State :=
  { cfg := cfg, slots := slots, trace := [], answers := answers, draws := 0, pending := [], call := none
    result := .nothing }

/-- Two active slots, the next answers all `true`. -/
def both : State := machine [waiting true, waiting true] [true, true, true, true, true, true, true, true]

/-- A machine to which the environment delivers an operation. -/
def delivered (bs : List Byte) : State := { both with pending := [bs] }

/-- A machine with an instruction to try by itself. -/
def called (d : Delivery) : State := { both with call := some d }

/-- CD4's frame, and the message it decodes to. -/
def frameF : List Byte := [0xAA, 0x30, 0x20, 0x12, 0x34, 1, 2, 3, 0, 0, 0, 0, 0, 0x9C, 0xA5]

def messageM : CanMsg := { id := 0x06041234, dlc := 8, data := #v[1, 2, 3, 0, 0, 0, 0, 0] }

/-- The trace, the slots and the result an answer leaves. -/
def traceOf : Answer → Option (List Action)
  | .next t => some t.trace
  | .fault _ => none
  | .refused _ => none

def slotsOf : Answer → Option (List (Bool × ParserState × Nat))
  | .next t => some (t.slots.map (fun sl => (sl.active, sl.parser.st, sl.parser.idx)))
  | .fault _ => none
  | .refused _ => none

def resultOf : Answer → Option Result
  | .next t => some t.result
  | .fault _ => none
  | .refused _ => none

def refusalOf : Answer → Option Refusal
  | .next _ => none
  | .fault _ => none
  | .refused r => some r

/-! ## Well-formedness: what each check refuses -/

theorem test_wellFormed_known_selectors :
    WellFormed cfg (.sysqUnknown 0x40 0) = false ∧ WellFormed cfg (.sysqUnknown 0x60 0) = false ∧
    WellFormed cfg (.sysqUnknown 0xE0 0) = false ∧ WellFormed cfg (.sysqUnknown 0xC0 0) = false := by decide
theorem test_wellFormed_short_to_gateway : WellFormed cfg (.shortUnrecognized 0x10 0x40 0x50) = false := by decide

/-! ## Decoding: one word written out for each instruction -/

/-- 30_encoding R73, the fields of F15 byte by byte. -/
theorem test_decode_canFrame : decode cfg (.wireFrame frameF) =
    .ok (.canFrame 0x30 0x20 0x12 0x34 #v[1, 2, 3, 0, 0, 0, 0, 0] 0x9C) := by rfl
theorem test_decode_sysqHwType : decode cfg (.wireFrame [0xAA, 0x10, 0x40, 0x50, 0xA5]) = .ok (.sysqHwType 0x50) := by rfl
theorem test_decode_sysqFwType : decode cfg (.wireFrame [0xAA, 0x10, 0x60, 0x70, 0xA5]) = .ok (.sysqFwType 0x70) := by rfl
theorem test_decode_sysqDescription :
    decode cfg (.wireFrame [0xAA, 0x10, 0xE0, 0xF0, 0xA5]) = .ok (.sysqDescription 0xF0) := by rfl
theorem test_decode_sysqSupplyVoltage :
    decode cfg (.wireFrame [0xAA, 0x10, 0xC0, 0xD0, 0xA5]) = .ok (.sysqSupplyVoltage 0xD0) := by rfl
theorem test_decode_sysqUnknown :
    decode cfg (.wireFrame [0xAA, 0x10, 0x41, 0x51, 0xA5]) = .ok (.sysqUnknown 0x41 0x51) := by rfl
theorem test_decode_shortUnrecognized :
    decode cfg (.wireFrame [0xAA, 0x20, 0x40, 0x60, 0xA5]) = .ok (.shortUnrecognized 0x20 0x40 0x60) := by rfl
theorem test_decode_reservedF13 :
    decode cfg (.wireFrame [0xAA, 1, 2, 3, 4, 5, 6, 7, 8, 9, 0x0A, 0x0B, 0xA5]) =
      .ok (.reservedF13 #v[1, 2, 3, 4, 5, 6, 7, 8, 9, 0x0A, 0x0B]) := by rfl

/-- The tcodes of 30_encoding R88, each with operands in the layout of log entry 8. -/
theorem test_decode_evConnect : decode cfg (.transaction [0x01]) = .ok .evConnect := by rfl
theorem test_decode_evBytes :
    decode cfg (.transaction [0x02, 1, 3, 0xAA, 0x10, 0x40]) = .ok (.evBytes 1 [0xAA, 0x10, 0x40]) := by rfl
theorem test_decode_evClosed : decode cfg (.transaction [0x03, 0x85, 0x02]) = .ok (.evClosed 261) := by rfl
/-- A slot id of any size has a delivery. -/
theorem test_decode_evClosed_large : decode cfg (.transaction [0x03, 0x80, 0x80, 0x04]) = .ok (.evClosed 65536) := by rfl
theorem test_decode_evCanRx :
    decode cfg (.transaction [0x04, 0x06, 0x04, 0x12, 0x34, 3, 1, 2, 3, 0, 0, 0, 0, 0]) =
      .ok (.evCanRx { id := 0x06041234, dlc := 3, data := #v[1, 2, 3, 0, 0, 0, 0, 0] }) := by rfl
theorem test_decode_checksum : decode cfg (.transaction [0x10, 2, 0xAA, 0x10]) = .ok (.checksum [0xAA, 0x10]) := by rfl
/-- 41_codec R141: the identifier field is reduced to its low 29 bits. -/
theorem test_decode_idPack : decode cfg (.transaction [0x11, 0xE6, 0x04, 0x12, 0x34]) = .ok (.idPack 0x06041234) := by rfl
theorem test_decode_idUnpack :
    decode cfg (.transaction [0x12, 0x30, 0x2E, 0x12, 0x34]) = .ok (.idUnpack 0x30 0x2E 0x12 0x34) := by rfl
theorem test_decode_encode :
    decode cfg (.transaction [0x13, 0, 1, 0, 0, 12, 1, 2, 3, 4, 5, 6, 7, 8]) =
      .ok (.encode { id := 0x10000, dlc := 12, data := #v[1, 2, 3, 4, 5, 6, 7, 8] }) := by rfl
theorem test_decode_decode : decode cfg (.transaction [0x14, 1, 0x77]) = .ok (.decode [0x77]) := by rfl
theorem test_decode_validate : decode cfg (.transaction [0x15, 1, 0x77]) = .ok (.validate [0x77]) := by rfl
theorem test_decode_decodeStrict : decode cfg (.transaction [0x16, 1, 0x77]) = .ok (.decodeStrict [0x77]) := by rfl
theorem test_decode_parseByte : decode cfg (.transaction [0x20, 1, 0xAA]) = .ok (.parseByte 1 0xAA) := by rfl
theorem test_decode_resetParser : decode cfg (.transaction [0x21, 2]) = .ok (.resetParser 2) := by rfl
theorem test_decode_respond : decode cfg (.transaction [0x22, 1, 0x77]) = .ok (.respond [0x77]) := by rfl
theorem test_decode_broadcast : decode cfg (.transaction [0x23, 1, 0x77]) = .ok (.broadcast [0x77]) := by rfl
theorem test_decode_clientFrame :
    decode cfg (.transaction [0x24, 1, 0, 0xAA, 0x10, 0x40, 0x50, 0xA5]) =
      .ok (.clientFrame 1 (.f5 #v[0xAA, 0x10, 0x40, 0x50, 0xA5])) := by rfl
theorem test_decode_deactivate : decode cfg (.transaction [0x25, 0]) = .ok (.deactivate 0) := by rfl

/-- Bytes that are no instruction are rejected by name (30_encoding R70, R88; log entry 8). -/
theorem test_decode_rejects :
    decode cfg (.transaction [0x05]) = .error (.unknownTcode 0x05) ∧
    decode cfg (.transaction []) = .error .empty ∧
    decode cfg (.transaction [0x12, 1, 2, 3]) = .error .truncated ∧
    decode cfg (.transaction [0x03, 0x80]) = .error .truncated ∧
    decodeInput [0x20, 0, 0xAA] = .error (.internalOnly 0x20) ∧
    decode cfg (.transaction [0x01, 0]) = .error .trailing ∧
    decode cfg (.transaction [0x24, 0, 3]) = .error (.badFormat 3) ∧
    decode cfg (.wireFrame [0xAA, 0x10, 0x40, 0xA5]) = .error .notAWireFrame ∧
    decode cfg (.wireFrame [0xAB, 0x10, 0x40, 0x50, 0xA5]) = .error .notAWireFrame := by decide

/-- The opcode table's own words, in both byte orders of a frame row (log entry 15). -/
theorem test_table_words :
    decodeTableWord 40 0xAA104000A5 = some (.sysqHwType 0) ∧ decodeTableWord 8 0x25 = some (.deactivate 0) ∧
    decodeTableWord 40 0xA5004010AA = some (.sysqHwType 0) := by decide

/-! ## The parser (95_test_vectors L2.1) -/

/-- The frames a fresh parser reports, and where it ends. -/
def fed (c : Config) (bs : List Byte) : List (List Byte) × ParserState × Nat :=
  ((Parser.reset.feedList c bs).2.filterMap id, (Parser.reset.feedList c bs).1.st, (Parser.reset.feedList c bs).1.idx)

theorem test_parser_PB1 : fed cfg [0xAA, 0x10, 0x40, 0x50, 0xA5] = ([[0xAA, 0x10, 0x40, 0x50, 0xA5]], .wait, 5) := by decide
theorem test_parser_PB4 : fed cfg [0xAA, 1, 0xA5, 2, 3, 0xA5] = ([], .collecting, 6) := by decide
theorem test_parser_PB7 :
    fed cfg ([0xAA] ++ List.replicate 14 0 ++ [0xAA, 0x10, 0x40, 0x50, 0xA5]) = ([], .wait, 16) := by decide
/-- PB12: the markers may be equal (00_scope R8). -/
theorem test_parser_PB12 :
    fed { cfg with startMarker := 0x7E, endMarker := 0x7E } [0x7E, 1, 2, 3, 0x7E] = ([[0x7E, 1, 2, 3, 0x7E]], .wait, 5) := by
  decide
/-- PB9: a 15-byte frame cut at byte 12. -/
theorem test_parser_PB9 : fed cfg [0xAA, 0x30, 0x20, 0x12, 0x34, 1, 2, 3, 4, 5, 6, 7, 0xA5, 0x57, 0xA5] =
    ([[0xAA, 0x30, 0x20, 0x12, 0x34, 1, 2, 3, 4, 5, 6, 7, 0xA5]], .wait, 13) := by decide

/-- The terminator at index 5 completes the frame; the sixteenth byte overflows (40_parser R100, R103). -/
theorem test_parseByte_ready : resultOf (exec (.parseByte 0 0xA5) (machine [collecting true 4] [])) =
    some (.parsed true [0xAA, 0, 0, 0, 0xA5]) := by decide
theorem test_parseByte_overflow : slotsOf (exec (.parseByte 0 0xAA) (machine [collecting true 15] [])) =
    some [(true, .wait, 16)] := by decide
/-- PB18. -/
theorem test_resetParser_PB18 : slotsOf (exec (.resetParser 0) (machine [collecting true 7] [])) =
    some [(true, .wait, 0)] := by decide

/-! ## The codec (95_test_vectors L2.2) -/

theorem test_checksum_CD1 : resultOf (exec (.checksum frameF) both) = some (.checksum 0x9C) := by decide
theorem test_checksum_CD2 :
    resultOf (exec (.checksum ([0] ++ List.replicate 12 0xFF ++ [0, 0])) both) = some (.checksum 0xF4) := by decide
theorem test_idPack_CD17 : resultOf (exec (.idPack 0x06041234) both) = some (.idBytes 0x30 0x20 0x12 0x34) := by decide
/-- 41_codec R131, the corner cases for `id[16]` and the largest identifier. -/
theorem test_idPack_corners :
    resultOf (exec (.idPack 0x1FFFFFFF) both) = some (.idBytes 0xFF 0xF1 0xFF 0xFF) ∧
    resultOf (exec (.idPack 0x00020000) both) = some (.idBytes 0 0x10 0 0) := by decide
theorem test_idUnpack_CD18 : resultOf (exec (.idUnpack 0x30 0x2E 0x12 0x34) both) = some (.ident 0x06041234) := by decide
theorem test_idUnpack_CD19 : resultOf (exec (.idUnpack 0xFF 0xFF 0xFF 0xFF) both) = some (.ident 0x1FFFFFFF) := by decide
theorem test_encode_CD10 :
    resultOf (exec (.encode { id := 0x06041234, dlc := 2, data := #v[0x11, 0x22, 0x33, 0x44, 0x55, 0x66, 0x77, 0x88] }) both) =
      some (.frame [0xAA, 0x30, 0x20, 0x12, 0x34, 0x11, 0x22, 0, 0, 0, 0, 0, 0, 0xC9, 0xA5]) := by decide
theorem test_encode_CD11 :
    resultOf (exec (.encode { id := 0x06041234, dlc := 12, data := #v[1, 2, 3, 4, 5, 6, 7, 8] }) both) =
      some (.frame [0xAA, 0x30, 0x20, 0x12, 0x34, 1, 2, 3, 4, 5, 6, 7, 8, 0xBA, 0xA5]) := by decide
theorem test_decode_CD14 :
    resultOf (exec (.decode [0, 0x30, 0x2E, 0x12, 0x34, 1, 2, 3, 0, 0, 0, 0, 0, 0x77, 0]) both) =
      some (.decoded (.ok messageM)) := by decide
theorem test_decode_CD15 :
    resultOf (exec (.decode [0xAA, 0x10, 0x40, 0x50, 0xA5]) both) = some (.decoded (.fail .badLength)) := by decide
theorem test_validate_CD20_CD21 :
    resultOf (exec (.validate frameF) both) = some (.valid true) ∧
    resultOf (exec (.validate (frameF.set 13 0x9D)) both) = some (.valid false) := by decide
theorem test_decodeStrict_CD22_CD25 :
    resultOf (exec (.decodeStrict frameF) both) = some (.decoded (.ok messageM)) ∧
    resultOf (exec (.decodeStrict (frameF.set 13 0x9D)) both) = some (.decoded (.fail .badChecksum)) := by decide
theorem test_decodeStrict_CD24_CD26 :
    resultOf (exec (.decodeStrict (frameF.set 14 0)) both) = some (.decoded (.fail .badEnd)) ∧
    resultOf (exec (.decodeStrict ((frameF.set 0 0).set 13 0)) both) = some (.decoded (.fail .badStart)) := by decide
/-- 60_exceptions R256: the status numbers. -/
theorem test_status_codes :
    ([.badLength, .badStart, .badEnd, .badChecksum] : List FailCode).map (fun c => (DecodeResult.fail c).status) =
      [1, 2, 3, 4] ∧ (DecodeResult.ok messageM).status = 0 := by decide
/-- 60_exceptions R258: the log kinds. -/
theorem test_log_codes :
    ([.unknownCommand 0x41, .unrecognizedShape 13 1, .txFail 5, .registryFull] : List LogEntry).map LogEntry.code =
      [1, 2, 3, 4] := by decide

/-! ## The responder (95_test_vectors L2.3) -/

theorem test_respond_RS4 : resultOf (exec (.respond [0xAA, 0x10, 0xE0, 0xF0, 0xA5]) both) =
    some (.replies [canned 3, canned 4] none) := by decide
theorem test_respond_RS8_RS9_RS10 :
    resultOf (exec (.respond [0xAA, 0x20, 0x40, 0x60, 0xA5]) both) = some (.replies [] none) ∧
    resultOf (exec (.respond [0xAA, 0x10, 0x40, 0x50, 0xA5, 0]) both) = some (.replies [] none) ∧
    resultOf (exec (.respond [0xAA, 0x10, 0xAA, 0xA5, 0xA5]) both) = some (.replies [] (some (.unknownCommand 0xAA))) := by
  decide

/-! ## Registry, broadcaster and paths (95_test_vectors L2.4, L3) -/

/-- BP3: a slot that is not connected is skipped and stays active. -/
theorem test_broadcast_BP3 :
    traceOf (exec (.broadcast frameF) (machine [waiting true, waiting true] [false, true, true])) =
      some [.write 1 frameF true] := by decide
/-- BP4: a failed write deactivates its slot at once and the loop goes on. -/
theorem test_broadcast_BP4 :
    traceOf (exec (.broadcast frameF) (machine [collecting true 3, waiting true] [true, false, true, true])) =
      some [.write 0 frameF false, .write 1 frameF true] ∧
    slotsOf (exec (.broadcast frameF) (machine [collecting true 3, waiting true] [true, false, true, true])) =
      some [(false, .wait, 0), (true, .wait, 0)] := by decide
/-- BP5's second and third connections. -/
theorem test_evConnect_BP5 :
    resultOf (exec .evConnect (machine [waiting true, waiting false] [])) = some (.assigned 1) ∧
    traceOf (exec .evConnect both) = some [.log .registryFull] ∧ resultOf (exec .evConnect both) = some .rejected := by
  decide
/-- BP6: the least free index is used again. -/
theorem test_evConnect_BP6 : resultOf (exec .evConnect (machine [waiting false, waiting true] [])) = some (.assigned 0) := by
  decide
/-- BP7. -/
theorem test_evCanRx_BP7 :
    traceOf (exec (.evCanRx { id := 0x06041234, dlc := 3, data := #v[1, 2, 3, 0, 0, 0, 0, 0] }) both) =
      some [.notify .busToNet frameF, .write 0 frameF true, .write 1 frameF true] := by decide
/-- BP12: a transmit failure is logged and nothing is broadcast. -/
theorem test_evBytes_BP12 :
    traceOf (exec (.evBytes 0 frameF) (machine [waiting true, waiting true] [false])) =
      some [.notify .netToBus frameF, .transmit messageM false, .log (.txFail 0x06041234)] := by decide
/-- L3-5: a slot deactivated by its own reply gets nothing more, and the rest of its batch is discarded. -/
theorem test_evBytes_L3_5 :
    traceOf (exec (.evBytes 0 [0xAA, 0x10, 0xE0, 0xF0, 0xA5, 0xAA, 0x10, 0x40, 0x50, 0xA5])
      (machine [waiting true, waiting true] [true, false, true, true, true, true, true, true])) =
      some [.write 0 (canned 3) false, .write 1 (canned 3) true, .write 1 (canned 4) true] := by decide
/-- BP16's first step, and BP17. -/
theorem test_evClosed_BP16_BP17 :
    slotsOf (exec (.evClosed 1) (machine [collecting true 2, collecting true 3] [])) =
      some [(true, .collecting, 2), (false, .wait, 0)] ∧
    refusalOf (exec (.evClosed 5) both) = some (.badConnectionId 5) := by decide
/-- 43_broadcast_paths R214, the worked example. -/
theorem test_deactivate_worked : slotsOf (exec (.deactivate 0) (machine [collecting true 3] [])) =
    some [(false, .wait, 0)] := by decide
/-- BP11 through `CLIENT_FRAME`. -/
theorem test_clientFrame_BP11 :
    traceOf (exec (.clientFrame 0 (.f15 #v[0xAA, 0x30, 0x20, 0x12, 0x34, 1, 2, 3, 0, 0, 0, 0, 0, 0x9C, 0xA5])) both) =
      some [.notify .netToBus frameF, .transmit messageM true] := by decide

/-! ## The frame kinds -/

/-- 30_encoding R89's pattern of the row, with `txOk` false (R209). -/
theorem test_canFrame_transmit :
    traceOf (exec (.canFrame 0x30 0x20 0x12 0x34 #v[1, 2, 3, 0, 0, 0, 0, 0] 0x9C) (machine [] [false])) =
      some [.notify .netToBus frameF, .transmit messageM false, .log (.txFail 0x06041234)] := by decide
/-- BP9's trace. -/
theorem test_sysqHwType_BP9 : traceOf (exec (.sysqHwType 0x50) both) =
    some [.write 0 (canned 1) true, .write 1 (canned 1) true] := by decide
theorem test_sysqFwType : traceOf (exec (.sysqFwType 0x70) (machine [waiting true] [true, true])) =
    some [.write 0 (canned 2) true] := by decide
/-- BP19: a slot that failed `CANNED_DESC1` does not get `CANNED_DESC2`. -/
theorem test_sysqDescription_BP19 :
    traceOf (exec (.sysqDescription 0xF0) (machine [waiting true, waiting true] [true, true, true, false, true, true])) =
      some [.write 0 (canned 3) true, .write 1 (canned 3) false, .write 0 (canned 4) true] := by decide
theorem test_sysqSupplyVoltage : traceOf (exec (.sysqSupplyVoltage 0xD0) (machine [waiting true] [true, true])) =
    some [.write 0 (canned 5) true] := by decide
/-- BP10, BP14 and BP13. -/
theorem test_sysqUnknown_BP10 : traceOf (exec (.sysqUnknown 0x41 0x51) both) = some [.log (.unknownCommand 0x41)] := by decide
theorem test_shortUnrecognized_BP14 :
    traceOf (exec (.shortUnrecognized 0x20 0x40 0x60) both) = some [.log (.unrecognizedShape 5 0x20)] := by decide
theorem test_reservedF13_BP13 :
    traceOf (exec (.reservedF13 #v[1, 2, 3, 4, 5, 6, 7, 8, 9, 0x0A, 0x0B]) both) =
      some [.log (.unrecognizedShape 13 1)] := by decide

/-! ## Reset and step -/

/-- RT1: power-on (70_reset R280). -/
theorem test_reset_RT1 :
    slotsOf (.next (State.powerOn cfg 3)) = some [(false, .wait, 0), (false, .wait, 0), (false, .wait, 0)] ∧
    (State.powerOn cfg 3).trace = [] := by decide
/-- RT2: from reset, bytes do nothing (the slot is not assigned). -/
theorem test_reset_RT2 :
    traceOf (exec (.evBytes 0 [0xAA, 0x10, 0x40, 0x50, 0xA5]) (State.powerOn cfg 3)) = some [] := by decide
/-- A step runs the delivery it finds, and takes it out. -/
theorem test_step_runs : resultOf (step (delivered [0x11, 0x06, 0x04, 0x12, 0x34])) =
    some (.idBytes 0x30 0x20 0x12 0x34) := by decide
/-- An opcode-table word runs from reset: `EV_CONNECT` takes slot 0 (R201's worked example). -/
theorem test_step_word : resultOf (step (State.reset.withFetchWord 8 0x01)) = some (.assigned 0) := by decide

/-! ## Witnesses: each obligation with hypotheses is about something

Each theorem shows, for one obligation, concrete states and operands that meet its hypotheses together, one
conjunct for each clause, at boundary values where a clause has a range. -/

theorem witness_StepRunsDecodedInstruction :
    ((delivered [0x01]).configOk = true ∧ (delivered [0x01]).call = none ∧ (delivered [0x01]).pending = [0x01] :: [] ∧
      decodeInput [0x01] = .ok .evConnect) ∧
    ((called (.wireFrame frameF)).configOk = true ∧ (called (.wireFrame frameF)).call = some (.wireFrame frameF) ∧
      (decode cfg (.wireFrame frameF)).toOption.isSome = true) := by decide

theorem witness_StepIdlesOrRefuses :
    (both.configOk = true ∧ both.call = none ∧ both.pending = []) ∧
    ((delivered [0x05]).configOk = true ∧ (delivered [0x05]).call = none ∧ (delivered [0x05]).pending = [0x05] :: [] ∧
      decodeInput [0x05] = .error (.unknownTcode 0x05)) ∧
    ((called (.wireFrame [])).configOk = true ∧ (called (.wireFrame [])).call = some (.wireFrame []) ∧
      decode cfg (.wireFrame []) = .error .notAWireFrame) ∧
    (machine [] []).configOk = false := by decide

/-- An event, a port, and `BROADCAST`, which is neither. -/
theorem witness_OnlyEventsAndPortsMayBeDelivered :
    (delivered [0x01]).configOk = true ∧ (delivered [0x01]).call = none ∧ (delivered [0x01]).pending = [0x01] :: [] ∧
    decode cfg (.transaction [0x01]) = .ok .evConnect ∧ isEvent .evConnect = true ∧
    decode cfg (.transaction [0x22, 0]) = .ok (.respond []) ∧ isPort (.respond []) = true ∧
    decode cfg (.transaction [0x23, 0]) = .ok (.broadcast []) ∧ isEvent (.broadcast []) = false ∧
    isPort (.broadcast []) = false ∧
    refusalOf (step (delivered [0x23, 0])) = some (.undecodable (.internalOnly 0x23)) ∧
    resultOf (step (delivered [0x22, 0])) = some (.replies [] none) := by decide

theorem witness_DecodeOfEncodeIsIdentity :
    cfg.ok = true ∧ WellFormed cfg (.evBytes 65536 [0xAA]) = true ∧ WellFormed cfg (.sysqUnknown 0x41 0xFF) = true ∧
    WellFormed cfg (.shortUnrecognized 0x11 0 0) = true ∧
    WellFormed cfg (.encode { id := 0x1FFFFFFF, dlc := 256, data := Vector.replicate 8 0xFF }) = true := by decide

theorem witness_WireFrameHasOneReading : ∃ i, decode cfg (.wireFrame frameF) = .ok i := ⟨_, test_decode_canFrame⟩

theorem witness_EveryWireFrameHasTheKindOfItsRow :
    cfg.ok = true ∧ isWireFrame cfg frameF = true ∧ isWireFrame cfg [0xAA, 0x10, 0x40, 0x50, 0xA5] = true ∧
    isWireFrame cfg [0xAA, 1, 2, 3, 4, 5, 6, 7, 8, 9, 0x0A, 0x0B, 0xA5] = true := by decide

theorem witness_ClientFrameRunsTheFramesKind :
    decode both.cfg (.wireFrame (WireFrame.bytes (.f5 #v[0xAA, 0x10, 0x40, 0x50, 0xA5]))) = .ok (.sysqHwType 0x50) := by
  decide

/-- The five branches: discard, start, completion at 5 and at 15, collection and overflow, the full buffer. -/
theorem witness_ParseByteTransitions :
    (both.slots[0]? = some (waiting true) ∧ (waiting true).parser.st = .wait ∧ (0xA5 : Byte) ≠ both.cfg.startMarker ∧
      (0xAA : Byte) = both.cfg.startMarker) ∧
    ((collecting true 4).parser.idx < 16 ∧ (collecting true 4).parser.st = .collecting ∧
      (collecting true 4).parser.idx + 1 = 5 ∧ (0xA5 : Byte) = cfg.endMarker) ∧
    ((collecting true 14).parser.idx < 16 ∧ (collecting true 14).parser.idx + 1 = 15) ∧
    ((collecting true 15).parser.idx < 16 ∧ ¬ ((collecting true 15).parser.idx + 1 = 5 ∨
      (collecting true 15).parser.idx + 1 = 13 ∨ (collecting true 15).parser.idx + 1 = 15)) ∧
    ((collecting true 1).parser.idx < 16 ∧ (0x10 : Byte) ≠ cfg.endMarker) ∧
    (16 ≤ (collecting true 16).parser.idx ∧ (collecting true 16).parser.st = .collecting) := by decide

theorem witness_ResetParserResult : (machine [collecting true 7] []).slots[0]? = some (collecting true 7) := by decide

theorem witness_DeactivateResult : both.slots[1]? = some (waiting true) := by decide

/-- A list of 15 bytes for each clause: the end marker first at 4, at 12, at 14, nowhere. -/
theorem witness_FrameRecognition :
    Parser.reset.st = .wait ∧
    ([1, 2, 3, 0xA5, 5, 6, 7, 8, 9, 10, 11, 0xA5, 13, 0xA5, 15] : List Byte).length = 15 ∧
    byteAt [1, 2, 3, 0xA5, 5, 6, 7, 8, 9, 10, 11, 0xA5, 13, 0xA5, 15] 3 = cfg.endMarker ∧
    byteAt [1, 2, 3, 4, 5, 6, 7, 8, 9, 10, 11, 0xA5, 13, 0xA5, 15] 3 ≠ cfg.endMarker ∧
    byteAt [1, 2, 3, 4, 5, 6, 7, 8, 9, 10, 11, 0xA5, 13, 0xA5, 15] 11 = cfg.endMarker ∧
    byteAt [1, 2, 3, 4, 5, 6, 7, 8, 9, 10, 11, 12, 13, 0xA5, 15] 11 ≠ cfg.endMarker ∧
    byteAt [1, 2, 3, 4, 5, 6, 7, 8, 9, 10, 11, 12, 13, 0xA5, 15] 13 = cfg.endMarker ∧
    byteAt [1, 2, 3, 4, 5, 6, 7, 8, 9, 10, 11, 12, 13, 14, 0xA5] 13 ≠ cfg.endMarker := by decide

theorem witness_NoiseIsDiscarded :
    both.slots[0]? = some (waiting true) ∧ (waiting true).parser.st = .wait ∧
    (∀ b ∈ List.replicate 17 (0 : Byte), b ≠ both.cfg.startMarker) ∧
    isWireFrame both.cfg [0xAA, 0x10, 0x40, 0x50, 0xA5] = true := by decide

theorem witness_ReportedFramesAreWireFrames :
    (collecting true 4).parser.Ok cfg ∧
    ((collecting true 4).parser.feed cfg 0xA5).2 = some [0xAA, 0, 0, 0, 0xA5] :=
  ⟨⟨by decide, fun _ => by decide⟩, by decide⟩

/-- A state in the middle of a frame that meets the invariants, and a step it takes. -/
def midFrame : State := { machine [collecting true 3, waiting false] [] with pending := [[0x01]] }

theorem midFrame_inv : midFrame.Inv := by
  refine ⟨?_, ?_, ?_⟩
  · intro sl h
    simp only [midFrame, machine, List.mem_cons, List.not_mem_nil, or_false] at h
    rcases h with rfl | rfl
    · exact ⟨by decide, fun _ => by decide⟩
    · exact ⟨by decide, fun h => by cases h⟩
  · intro sl h ha
    simp only [midFrame, machine, List.mem_cons, List.not_mem_nil, or_false] at h
    rcases h with rfl | rfl
    · cases ha
    · rfl
  · rfl

theorem midFrame_steps : ∃ t, step midFrame = .next t := ⟨_, rfl⟩

theorem witness_EveryStepKeepsParsersOk : midFrame.ParsersOk ∧ ∃ t, step midFrame = .next t :=
  ⟨midFrame_inv.1, midFrame_steps⟩

theorem witness_EveryStepKeepsRegistryInvariant : midFrame.Inv ∧ ∃ t, step midFrame = .next t :=
  ⟨midFrame_inv, midFrame_steps⟩

/-- A reachable state with a slot assigned and an instruction of the environment still to come. -/
theorem witness_ReachableStatesMeetInvariants : ∃ s : State, s.Reachable ∧ s.isActive 0 = true ∧ s.pending ≠ [] :=
  ⟨_, .step _ _ (.environment _ [[0x01], [0x01]] [] (.powerOn cfg 1)) rfl, by decide, by decide⟩

theorem witness_ConfigurationNeverChanges : ∃ t, step midFrame = .next t := midFrame_steps

theorem witness_TraceOnlyGrows : ∃ t, step midFrame = .next t := midFrame_steps

/-- Two states that are not equal and agree: the parser in `WAIT` holds another buffer and another index. -/
theorem witness_HiddenParserContentsAreUnobservable :
    (machine [waiting true] []).Agree
      (machine [{ active := true, parser := { st := .wait, idx := 5, buf := Vector.replicate 16 0xFF } }] []) ∧
    machine [waiting true] [] ≠
      machine [{ active := true, parser := { st := .wait, idx := 5, buf := Vector.replicate 16 0xFF } }] [] :=
  ⟨⟨rfl, .cons ⟨rfl, rfl, fun h => by cases h⟩ .nil, rfl, rfl, rfl, rfl, rfl, rfl⟩, by decide⟩

/-- Each way a step stops, and what it finds to stop on. -/
theorem witness_StepStopsOnlyAsNamed :
    refusalOf (step (machine [] [])) = some .badConfiguration ∧
    (refusalOf (step (delivered [0x03, 2])) = some (.badConnectionId 2) ∧
      decodeInput [0x03, 2] = .ok (.evClosed 2) ∧ both.nSlots ≤ 2) ∧
    (refusalOf (step (called (.transaction [0x25, 2]))) = some (.badConnectionId 2) ∧
      decode cfg (.transaction [0x25, 2]) = .ok (.deactivate 2)) ∧
    (refusalOf (step (delivered [0x10, 2, 0xAA, 0x10])) = some (.checksumShortInput 2) ∧
      decodeInput [0x10, 2, 0xAA, 0x10] = .ok (.checksum [0xAA, 0x10])) ∧
    refusalOf (step (delivered [0x05])) = some (.undecodable (.unknownTcode 0x05)) := by decide

theorem witness_BadConnectionIdRefused : both.nSlots ≤ 2 := by decide

theorem witness_InternalBadSlotIdRefused : both.nSlots ≤ 2 := by decide

theorem witness_ConnectTakesLeastFreeSlot :
    ((machine [waiting true, waiting false] []).slots[1]? = some (waiting false) ∧ (waiting false).active = false ∧
      ∀ (j : Nat) (a : Slot), j < 1 → (machine [waiting true, waiting false] []).slots[j]? = some a → a.active = true) ∧
    ∀ sl ∈ both.slots, sl.active = true := by
  refine ⟨⟨by decide, by decide, ?_⟩, by decide⟩
  intro j a hj h
  have : j = 0 := by omega
  subst this
  cases h
  rfl

theorem witness_ClosedDeactivatesActiveSlot :
    (both.slots[1]? = some (waiting true) ∧ (waiting true).active = true) ∧
    ((machine [waiting false] []).slots[0]? = some (waiting false) ∧ (waiting false).active = false) ∧
    both.nSlots ≤ 2 := by decide

theorem witness_EvBytesRunsTheLoop :
    1 < both.nSlots ∧ both.isActive 1 = true ∧
    (0 < (machine [waiting false] []).nSlots ∧ (machine [waiting false] []).isActive 0 = false) ∧
    both.nSlots ≤ 2 ∧
    resultOf (exec (.parseByte 0 0) both) = some (.parsed false []) ∧
    resultOf (exec (.parseByte 0 0xA5) (machine [collecting true 4] [])) = some (.parsed true [0xAA, 0, 0, 0, 0xA5]) := by
  decide

/-- The second clause: the slot is deactivated by a failed write of the reply to its own query. -/
theorem witness_InactiveSlotBytesDiscarded :
    (0 < (machine [waiting false] []).nSlots ∧ (machine [waiting false] []).isActive 0 = false) ∧
    ∃ t, exec (.evBytes 0 [0xAA, 0x10, 0x40, 0x50, 0xA5]) (machine [waiting true] [true, false]) = .next t ∧
      t.isActive 0 = false :=
  ⟨by decide, _, rfl, by decide⟩

theorem witness_BatchingDoesNotMatter : 1 < both.nSlots := by decide

/-- A frame of each length that no earlier terminal index cuts. -/
theorem witness_ReceivedFrameIsDispatched :
    both.slots[0]? = some (waiting true) ∧ (waiting true).active = true ∧ (waiting true).parser.st = .wait ∧
    isWireFrame both.cfg (WireFrame.bytes (.f5 #v[0xAA, 0x10, 0x40, 0x50, 0xA5])) = true ∧
    (isWireFrame both.cfg (WireFrame.bytes (.f13 #v[0xAA, 1, 2, 3, 4, 5, 6, 7, 8, 9, 10, 11, 0xA5])) = true ∧
      byteAt (WireFrame.bytes (.f13 #v[0xAA, 1, 2, 3, 4, 5, 6, 7, 8, 9, 10, 11, 0xA5])) 4 ≠ both.cfg.endMarker) ∧
    (isWireFrame both.cfg frameF = true ∧ byteAt frameF 4 ≠ both.cfg.endMarker ∧
      byteAt frameF 12 ≠ both.cfg.endMarker) := by decide

/-- CD28's frame, cut at byte 4, and PB9's, cut at byte 12. -/
theorem witness_PrematureTerminatorCutsTheFrame :
    (isWireFrame cfg [0xAA, 0x05, 0x21, 0xA5, 0xA5, 0, 0, 0, 0, 0, 0, 0, 0, 0x70, 0xA5] = true ∧
      byteAt [0xAA, 0x05, 0x21, 0xA5, 0xA5, 0, 0, 0, 0, 0, 0, 0, 0, 0x70, 0xA5] 4 = cfg.endMarker ∧
      ∀ b ∈ ([0xAA, 0x05, 0x21, 0xA5, 0xA5, 0, 0, 0, 0, 0, 0, 0, 0, 0x70, 0xA5] : List Byte).drop 5,
        b ≠ cfg.startMarker) ∧
    (isWireFrame cfg [0xAA, 0x30, 0x20, 0x12, 0x34, 1, 2, 3, 4, 5, 6, 7, 0xA5, 0x57, 0xA5] = true ∧
      byteAt [0xAA, 0x30, 0x20, 0x12, 0x34, 1, 2, 3, 4, 5, 6, 7, 0xA5, 0x57, 0xA5] 4 ≠ cfg.endMarker ∧
      byteAt [0xAA, 0x30, 0x20, 0x12, 0x34, 1, 2, 3, 4, 5, 6, 7, 0xA5, 0x57, 0xA5] 12 = cfg.endMarker ∧
      ∀ b ∈ ([0xAA, 0x30, 0x20, 0x12, 0x34, 1, 2, 3, 4, 5, 6, 7, 0xA5, 0x57, 0xA5] : List Byte).drop 13,
        b ≠ cfg.startMarker) := by decide

/-- BP4's broadcast, where slot 0 changes, and an `EV_BYTES` on slot 1 whose reply fails on slot 0. -/
theorem witness_OtherSlotsChangeOnlyByFailedWrite :
    isDispatch (.broadcast frameF) = true ∧
    (∃ t, exec (.broadcast frameF) (machine [collecting true 3, waiting true] [true, false, true, true]) = .next t ∧
      t.isActive 0 = false) ∧
    (∃ t, exec (.evBytes 1 [0xAA, 0x10, 0x40, 0x50, 0xA5]) (machine [waiting true, waiting true] [true, false, true, true]) =
      .next t ∧ t.isActive 0 = false ∧ t.isActive 1 = true) :=
  ⟨by decide, ⟨_, rfl, by decide⟩, ⟨_, rfl, by decide, by decide⟩⟩

theorem witness_BroadcastToNobody : ∀ sl ∈ (machine [waiting false, waiting false] []).slots, sl.active = false := by
  decide

theorem witness_SingleReplyQueriesBroadcastTheirFrame : both.cfg.ok = true := by decide

theorem witness_DescriptionQueryBroadcastsTwoFrames : both.cfg.ok = true := by decide

theorem witness_UnknownSelectorIsLogged :
    (0x41 : Byte) ∉ [Config.selHw, both.cfg.selFw, Config.selDesc, both.cfg.selVolt] := by decide

theorem witness_ClientFrameSortsByLengthAndNode :
    both.cfg.ok = true ∧ (#v[0xAA, 0x20, 0x40, 0x60, 0xA5] : Vector Byte 5)[1] ≠ both.cfg.gatewayAddr ∧
    (#v[0xAA, 0x10, 0x40, 0x50, 0xA5] : Vector Byte 5)[1] = both.cfg.gatewayAddr ∧
    (#v[0xAA, 0x10, 0x40, 0x50, 0xA5] : Vector Byte 5)[2] = Config.selHw ∧
    (#v[0xAA, 0x10, 0x60, 0x70, 0xA5] : Vector Byte 5)[2] = both.cfg.selFw ∧
    (#v[0xAA, 0x10, 0xE0, 0xF0, 0xA5] : Vector Byte 5)[2] = Config.selDesc ∧
    (#v[0xAA, 0x10, 0xC0, 0xD0, 0xA5] : Vector Byte 5)[2] = both.cfg.selVolt ∧
    (#v[0xAA, 0x10, 0x41, 0x51, 0xA5] : Vector Byte 5)[2] ∉
      [Config.selHw, both.cfg.selFw, Config.selDesc, both.cfg.selVolt] := by decide

theorem witness_QueriesAndBusMessagesAreNeverTransmitted :
    (∃ t, exec (.sysqHwType 0) both = .next t) ∧ (∃ t, exec (.sysqFwType 0) both = .next t) ∧
    (∃ t, exec (.sysqDescription 0) both = .next t) ∧ (∃ t, exec (.sysqSupplyVoltage 0) both = .next t) ∧
    (∃ t, exec (.sysqUnknown 0x41 0) both = .next t) ∧ (∃ t, exec (.shortUnrecognized 0x20 0 0) both = .next t) ∧
    (∃ t, exec (.clientFrame 0 (.f5 #v[0xAA, 0x10, 0x40, 0x50, 0xA5])) both = .next t) ∧
    (∃ t, exec (.evCanRx messageM) both = .next t) :=
  ⟨⟨_, rfl⟩, ⟨_, rfl⟩, ⟨_, rfl⟩, ⟨_, rfl⟩, ⟨_, rfl⟩, ⟨_, rfl⟩, ⟨_, rfl⟩, ⟨_, rfl⟩⟩

/-- The two sides of the length test. -/
theorem witness_ChecksumResult :
    13 ≤ (List.replicate 13 (0 : Byte)).length ∧ (List.replicate 12 (0 : Byte)).length < 13 := by decide

theorem witness_IdPackDefaultLayout : both.cfg.packing = IdPacking.default := by decide

theorem witness_IdUnpackDefaultLayout : both.cfg.packing = IdPacking.default := by decide

/-- A table that inverts every bit of the lower half and no layout can give. -/
def invertingTable : IdTable :=
  { hi := (List.range (2 ^ 13)).map (BitVec.ofNat 16)
    lo := (List.range (2 ^ 16)).map (fun n => ~~~ BitVec.ofNat 16 n), other := [] }

/-- Numbers below 2^16 give words without repeats. -/
theorem nodup_words (k : Nat) (hk : k ≤ 65536) : ((List.range k).map (BitVec.ofNat 16)).Nodup := by
  refine List.Nodup.map_on (fun a ha b hb h => ?_) List.nodup_range
  have h' := congrArg BitVec.toNat h
  simp only [BitVec.toNat_ofNat, List.mem_range] at h' ha hb
  omega

theorem invertingTable_ok : invertingTable.ok = true := by
  have hlo : ((List.range (2 ^ 16)).map (fun n => ~~~ BitVec.ofNat 16 n)).Nodup := by
    have h := (nodup_words (2 ^ 16) (by omega)).map (f := fun w => ~~~ w) fun a b hab => by simpa using hab
    rwa [List.map_map] at h
  exact (IdTable.ok_iff _).2
    ⟨by simp [invertingTable], by simp [invertingTable],
      by simpa only [invertingTable] using nodup_words (2 ^ 13) (by omega), by simpa only [invertingTable] using hlo⟩

/-- The default layout, another one that uses the other three bits of byte 2 and turns `b3:b4` round, and a table. -/
theorem witness_PackingLaws :
    IdPacking.default.ok = true ∧
    (IdPacking.layout
      { hi := [3, 2, 1, 0, 15, 14, 13, 12, 11, 10, 9, 8, 7], lo := IdLayout.default.lo.reverse }).ok = true ∧
    (IdPacking.table invertingTable).ok = true :=
  ⟨by decide, by decide, invertingTable_ok⟩

/-- A pair that inverts `b1`, `b3` and `b4` meets the three laws. -/
theorem witness_EveryLawfulPairIsAPacking :
    ∃ (pack : Ident → Byte × Byte × Byte × Byte) (unpack : Byte → Byte → Byte → Byte → Ident),
      (∀ id, unpack (pack id).1 (pack id).2.1 (pack id).2.2.1 (pack id).2.2.2 = id) ∧
      (∀ id id' : Ident, id.extractLsb 15 0 = id'.extractLsb 15 0 → (pack id).2.2 = (pack id').2.2) ∧
      (∀ id id' : Ident, id.extractLsb 28 16 = id'.extractLsb 28 16 →
        (pack id).1 = (pack id').1 ∧ (pack id).2.1 = (pack id').2.1) ∧
      pack 0 = (0xFF, 0, 0xFF, 0xFF) := by
  refine ⟨fun id => (~~~ ((id.extractLsb 28 16).extractLsb 12 5), ((id.extractLsb 28 16).extractLsb 4 0).setWidth 8,
      ~~~ ((id.extractLsb 15 0).extractLsb 15 8), ~~~ ((id.extractLsb 15 0).extractLsb 7 0)),
    fun b1 b2 b3 b4 => (~~~ b1) ++ (b2.setWidth 5) ++ (~~~ b3) ++ (~~~ b4), ?_, ?_, ?_, by decide⟩
  · intro id
    refine BitVec.eq_of_getLsbD_eq fun j hj => ?_
    simp only [BitVec.not_not, BitVec.getLsbD_append, BitVec.getLsbD_extractLsb, BitVec.getLsbD_setWidth]
    rcases Nat.lt_or_ge j 8 with h | h
    · have : j < 16 := by omega
      simp [h, this]
    rcases Nat.lt_or_ge j 16 with h' | h'
    · have e : 8 + (j - 8) = j := by omega
      have e' : j - 8 < 8 := by omega
      simp [Nat.not_lt.2 h, e, e', h']
    rcases Nat.lt_or_ge j 21 with h'' | h''
    · have e : 16 + (j - 8 - 8) = j := by omega
      have e' : j - 8 - 8 < 5 := by omega
      have e'' : ¬ j - 8 < 8 := by omega
      have e3 : j - 8 - 8 < 8 := by omega
      have e4 : j - 8 - 8 < 13 := by omega
      simp [Nat.not_lt.2 h, e, e', e'', e3, e4]
    · have e : 16 + (5 + (j - 8 - 8 - 5)) = j := by omega
      have e' : ¬ j - 8 - 8 < 5 := by omega
      have e'' : ¬ j - 8 < 8 := by omega
      have e3 : j - 8 - 8 - 5 < 8 := by omega
      have e4 : 5 + (j - 8 - 8 - 5) < 13 := by omega
      simp [Nat.not_lt.2 h, e, e', e'', e3, e4]
  · intro id id' h
    simp only [h]
  · intro id id' h
    simp only [h, and_self]

/-- `ID_PACK` with two identifiers that share their lower 16 bits, and two that share their upper 13. -/
theorem witness_PackingLaws_shared :
    (BitVec.extractLsb 15 0 (0x06041234 : Ident) = BitVec.extractLsb 15 0 (0x00001234 : Ident)) ∧
    (BitVec.extractLsb 28 16 (0x06041234 : Ident) = BitVec.extractLsb 28 16 (0x0604FFFF : Ident)) ∧
    exec (.idPack 0x06041234) both = .next { both with result := .idBytes 0x30 0x20 0x12 0x34 } :=
  ⟨by decide, by decide, rfl⟩

/-- The data field of CD10's message, byte by byte. -/
theorem witness_EncodeResult : ∃ d : Nat → Byte,
    (∀ k, d k = if k < 2 then (#v[0x11, 0x22, 0x33, 0x44, 0x55, 0x66, 0x77, 0x88] : Vector Byte 8).toList.getD k 0 else 0) ∧
    d 0 = 0x11 ∧ d 1 = 0x22 ∧ d 2 = 0 :=
  ⟨_, fun _ => rfl, by decide, by decide, by decide⟩

theorem witness_DecodeResultOfAnyList : ([0xAA, 0x10, 0x40, 0x50, 0xA5] : List Byte).length ≠ 15 := by decide

/-- A list for each check, and one that passes them all. -/
theorem witness_DecodeStrictResult :
    ([] : List Byte).length ≠ 15 ∧
    ((frameF.set 0 0).length = 15 ∧ byteAt (frameF.set 0 0) 0 ≠ both.cfg.startMarker) ∧
    (byteAt (frameF.set 14 0) 0 = both.cfg.startMarker ∧ byteAt (frameF.set 14 0) 14 ≠ both.cfg.endMarker) ∧
    (byteAt (frameF.set 13 0x9D) 14 = both.cfg.endMarker ∧
      resultOf (exec (.checksum (frameF.set 13 0x9D)) both) ≠ some (.checksum (byteAt (frameF.set 13 0x9D) 13))) ∧
    exec (.validate frameF) both = .next { both with result := .valid true } :=
  ⟨by decide, by decide, by decide, by decide, rfl⟩

theorem witness_CodecRoundTrip : both.cfg.packing.ok = true ∧ messageM.dlc ≤ 8 := by decide

/-- CD4's frame and CD14's, which differ in bytes 0, 13, 14 and in bits 3:1 of byte 2. -/
theorem witness_DecodeIgnoresMarkersChecksumAndSpareBits :
    frameF.length = 15 ∧ ([0, 0x30, 0x2E, 0x12, 0x34, 1, 2, 3, 0, 0, 0, 0, 0, 0x77, 0] : List Byte).length = 15 ∧
    both.cfg.packing = IdPacking.default ∧
    (∀ k ∈ List.range 13, 1 ≤ k → k ≠ 2 →
      byteAt frameF k = byteAt [0, 0x30, 0x2E, 0x12, 0x34, 1, 2, 3, 0, 0, 0, 0, 0, 0x77, 0] k) ∧
    byteAt frameF 2 &&& 0xF1 = byteAt [0, 0x30, 0x2E, 0x12, 0x34, 1, 2, 3, 0, 0, 0, 0, 0, 0x77, 0] 2 &&& 0xF1 ∧
    (∀ k ∈ List.range 13, 1 ≤ k → byteAt frameF k = byteAt ((frameF.set 0 0).set 13 0) k) := by decide

theorem witness_EncodeAfterDecodeCorrectsTheFrame :
    both.cfg.packing = IdPacking.default ∧ frameF.length = 15 ∧ byteAt frameF 2 &&& 0x0E = 0 ∧
    exec (.validate frameF) both = .next { both with result := .valid true } :=
  ⟨by decide, by decide, by decide, rfl⟩

/-- Two states with one configuration, a port that answers and one that is refused. -/
theorem witness_PortsArePure :
    isPort (.checksum frameF) = true ∧ both.cfg = (machine [] []).cfg ∧
    (∃ t, exec (.checksum frameF) both = .next t) ∧
    exec (.checksum []) both = .refused (.checksumShortInput 0) :=
  ⟨by decide, by decide, ⟨_, rfl⟩, rfl⟩

theorem witness_RespondTable :
    both.cfg.ok = true ∧ ¬ (frameF.length = 5 ∧ byteAt frameF 1 = both.cfg.gatewayAddr) ∧
    byteAt [0xAA, 0x10, 0x40, 0x50, 0xA5] 1 = both.cfg.gatewayAddr ∧
    byteAt [0xAA, 0x10, 0x40, 0x50, 0xA5] 2 = Config.selHw ∧ byteAt [0xAA, 0x10, 0x60, 0x70, 0xA5] 2 = both.cfg.selFw ∧
    byteAt [0xAA, 0x10, 0xE0, 0xF0, 0xA5] 2 = Config.selDesc ∧
    byteAt [0xAA, 0x10, 0xC0, 0xD0, 0xA5] 2 = both.cfg.selVolt ∧
    byteAt [0xAA, 0x10, 0x41, 0x51, 0xA5] 2 ∉ [Config.selHw, both.cfg.selFw, Config.selDesc, both.cfg.selVolt] := by
  decide

theorem witness_RepliesAreValidFrames : both.cfg.ok = true ∧ CannedWf both.cfg :=
  ⟨by decide, rfl, rfl, rfl, rfl, rfl⟩

end Sys2Proof.Tests
end

section
/-! The scope of the block (00_scope): the parameters and the capacity stay as they are. -/

namespace Sys2Proof.Machine

/-- A step idles or runs one instruction on the state with that instruction taken out, and what every instruction
keeps of that state it keeps. -/
theorem kept_step {s t : State} (h : step s = .next t) :
    Kept s t ∨ Kept s.clearCall t ∨ Kept s.popPending t := by
  rcases step_next_cases h with ⟨rfl, -, -⟩ | ⟨_, _, -, -, hexec⟩ | ⟨_, _, _, -, -, -, hexec⟩
  · exact .inl (.refl t)
  · exact .inr (.inl (kept_exec hexec))
  · exact .inr (.inr (kept_exec hexec))

/-- Settles O21: every instruction keeps the configuration and the capacity, and taking an instruction out of the
call or the deliveries changes neither. -/
theorem configurationNeverChanges : Obligations.ConfigurationNeverChanges := by
  intro s t h
  rcases kept_step h with hidle | hcall | hdelivery
  · exact ⟨hidle.cfg, hidle.nSlots⟩
  · exact ⟨hcall.cfg, hcall.nSlots⟩
  · exact ⟨hdelivery.cfg, hdelivery.nSlots⟩

end Sys2Proof.Machine
end

section
/-! What the environment may hand in (10_state R31, R32), and the invariants of 10_state R37 along a run. -/

namespace Sys2Proof.Machine

/-! ## Deliveries -/

/-- A delivery the environment may hand in runs on the state with it taken out. -/
theorem step_delivery_ok {s : State} {bs : List Byte} {rest : List (List Byte)} {i : Instr}
    (hc : s.configOk = true) (hcall : s.call = none) (hp : s.pending = bs :: rest) (hd : decodeInput bs = .ok i) :
    step s = exec i { s with pending := rest } := by
  simp [step, State.fetch, State.popPending, hc, hcall, hp, hd]

/-- A delivery that may not be handed in stops the step with the reason. -/
theorem step_delivery_error {s : State} {bs : List Byte} {rest : List (List Byte)} {e : Reject}
    (hc : s.configOk = true) (hcall : s.call = none) (hp : s.pending = bs :: rest) (hd : decodeInput bs = .error e) :
    step s = .refused (.undecodable e) := by
  simp [step, State.fetch, hc, hcall, hp, hd]

/-- What the environment may hand in are the events and the ports. -/
theorem isInput_iff (i : Instr) : isInput i = true ↔ isEvent i = true ∨ isPort i = true := by
  cases i <;> simp [isInput, isEvent, isPort]

/-- An operation that decodes and may not be handed in is rejected with its code. -/
theorem decodeInput_internal {bs : List Byte} {i : Instr} (hd : decodeTransaction bs = .ok i)
    (hi : isInput i = false) : decodeInput bs = .error (.internalOnly (byteAt bs 0)) := by
  simp [decodeInput, hd, hi]

/-- No step leaves an instruction to be tried by itself: the one tried is taken out, and nothing puts one there. -/
theorem step_next_call {s t : State} (h : step s = .next t) : t.call = none := by
  rcases step_next_cases h with ⟨rfl, hcall, -⟩ | ⟨_, _, -, -, hexec⟩ | ⟨_, _, _, hcall, -, -, hexec⟩
  · exact hcall
  · exact (kept_exec hexec).call
  · exact (kept_exec hexec).call.trans hcall

/-- Settles O3: the inputs are the events and the ports, so a delivery that decodes to one of them runs, and one that
decodes to an internal operation is rejected with its code. -/
theorem onlyEventsAndPortsMayBeDelivered : Obligations.OnlyEventsAndPortsMayBeDelivered := by
  intro s
  refine ⟨fun bs rest i hc hcall hp hd => ?_, fun t => step_next_call⟩
  change decodeTransaction bs = .ok i at hd
  constructor
  · intro hi
    exact step_delivery_ok hc hcall hp (decodeInput_ok.2 ⟨hd, (isInput_iff i).2 hi⟩)
  · intro hevent hport
    have hi : isInput i = false := by simp [← Bool.not_eq_true, isInput_iff, hevent, hport]
    exact step_delivery_error hc hcall hp (decodeInput_internal hd hi)

/-! ## What the instructions do to the slots -/

/-- An instruction that dispatches a frame answers what serving frames leaves, and returns nothing. -/
theorem exec_dispatch_next {i : Instr} {s t : State} (hd : isDispatch i = true) (h : exec i s = .next t) :
    ∃ u, Served s u ∧ t = u.setResult .nothing := by
  cases i
  case canFrame => exact ⟨_, (served_emit _ s).trans (served_canFramePath _ _), State.returning_next h⟩
  case sysqHwType => exact ⟨_, served_sysqPath _ s, State.returning_next h⟩
  case sysqFwType => exact ⟨_, served_sysqPath _ s, State.returning_next h⟩
  case sysqDescription => exact ⟨_, served_sysqPath _ s, State.returning_next h⟩
  case sysqSupplyVoltage => exact ⟨_, served_sysqPath _ s, State.returning_next h⟩
  case sysqUnknown => exact ⟨_, served_sysqPath _ s, State.returning_next h⟩
  case shortUnrecognized => exact ⟨_, served_emit _ s, State.returning_next h⟩
  case reservedF13 => exact ⟨_, served_emit _ s, State.returning_next h⟩
  case evCanRx => exact ⟨_, (served_emit _ s).trans (served_broadcast _ _), State.returning_next h⟩
  case broadcast => exact ⟨_, served_broadcast _ s, State.returning_next h⟩
  case clientFrame => exact ⟨_, served_clientFrame _ s, State.returning_next h⟩
  all_goals cases hd

/-- A port that answers writes its result and nothing else (10_state R32, 41_codec R137). -/
theorem exec_port_next {i : Instr} {s t : State} (hp : isPort i = true) (h : exec i s = .next t) :
    ∃ r, t = s.setResult r := by
  cases i
  case checksum =>
    simp only [exec, execChecksum] at h
    split at h
    · exact ⟨_, State.returning_next h⟩
    · cases h
  case idPack => exact ⟨_, State.returning_next h⟩
  case idUnpack => exact ⟨_, State.returning_next h⟩
  case encode => exact ⟨_, State.returning_next h⟩
  case decode => exact ⟨_, State.returning_next h⟩
  case validate => exact ⟨_, State.returning_next h⟩
  case decodeStrict => exact ⟨_, State.returning_next h⟩
  case respond => exact ⟨_, State.returning_next h⟩
  all_goals cases hp

/-- An instruction dispatches a frame, is a port, or is one of the six that work on a slot by themselves. -/
theorem instr_cases (i : Instr) :
    isDispatch i = true ∨ isPort i = true ∨ i = .evConnect ∨ (∃ k bytes, i = .evBytes k bytes) ∨
    (∃ k, i = .evClosed k) ∨ (∃ n b, i = .parseByte n b) ∨ (∃ n, i = .resetParser n) ∨ ∃ n, i = .deactivate n := by
  cases i <;> simp [isDispatch, isPort]

/-- Every slot of the registry has the property. -/
def State.EverySlot (P : Slot → Prop) (s : State) : Prop := ∀ sl ∈ s.slots, P sl

/-- A property of slots that survives everything the events do to one: under R207 a byte reaches the parser of an
active slot only. -/
structure SlotInvariant (c : Config) (P : Slot → Prop) : Prop where
  deactivated : ∀ sl, P sl → P sl.deactivated
  assigned : ∀ sl, P sl → P sl.assigned
  resetParser : ∀ sl, P sl → P sl.resetParser
  fed : ∀ sl b, sl.active = true → P sl → P { sl with parser := (sl.parser.feed c b).1 }

namespace State.EverySlot

variable {P : Slot → Prop} {s t : State}

theorem setSlot {i : Nat} {sl : Slot} (hs : s.EverySlot P) (hsl : P sl) : (s.setSlot i sl).EverySlot P := by
  intro a ha
  rcases List.mem_or_eq_of_mem_set ha with hmem | rfl
  · exact hs a hmem
  · exact hsl

theorem modifySlot {i : Nat} {g : Slot → Slot} (hs : s.EverySlot P) (hg : ∀ sl, P sl → P (g sl)) :
    (s.modifySlot i g).EverySlot P := by
  intro a ha
  obtain ⟨j, hj⟩ := List.mem_iff_getElem?.1 ha
  rw [State.modifySlot_slots, List.getElem?_modify] at hj
  obtain ⟨sl, hsl, rfl⟩ := Option.map_eq_some_iff.1 hj
  have hP : P sl := hs sl (List.mem_of_getElem? hsl)
  split
  · exact hg sl hP
  · exact hP

theorem served (hP : ∀ sl, P sl → P sl.deactivated) (hs : s.EverySlot P) (h : Served s t) : t.EverySlot P := by
  intro a ha
  obtain ⟨j, hj⟩ := List.mem_iff_getElem?.1 ha
  obtain ⟨_, -, hslots⟩ := h.slots
  rcases hslots j with hsame | ⟨sl, _, hsl, -, hnow, -⟩
  · exact hs a (List.mem_of_getElem? (hsame ▸ hj))
  · obtain rfl : sl.deactivated = a := Option.some.inj (hnow ▸ hj)
    exact hP sl (hs sl (List.mem_of_getElem? hsl))

theorem receiveByte (hP : SlotInvariant s.cfg P) (hs : s.EverySlot P) (k : Nat) (b : Byte) :
    (s.receiveByte k b).EverySlot P := by
  cases hk : s.isActive k with
  | false => rwa [State.receiveByte_of_inactive hk]
  | true =>
    obtain ⟨sl, hsl, hactive⟩ := State.isActive_iff.1 hk
    have hfed : (s.setSlot k { sl with parser := (sl.parser.feed s.cfg b).1 }).EverySlot P :=
      hs.setSlot (hP.fed sl b hactive (hs sl (List.mem_of_getElem? hsl)))
    rcases State.receiveByte_cases (b := b) hsl hactive with ⟨f, -, e⟩ | ⟨-, e⟩ <;> rw [e]
    · exact hfed.served hP.deactivated (served_clientFrame f _)
    · exact hfed

theorem receiveBytes (hP : SlotInvariant s.cfg P) (hs : s.EverySlot P) (k : Nat) (bytes : List Byte) :
    (s.receiveBytes k bytes).EverySlot P := by
  induction bytes generalizing s with
  | nil => exact hs
  | cons b bs ih => exact ih ((kept_receiveByte k s b).cfg ▸ hP) (hs.receiveByte hP k b)

theorem returning {u : State} {r : Result} (hu : u.EverySlot P) (h : u.returning r = .next t) : t.EverySlot P := by
  rw [State.returning_next h]
  exact hu

/-- Every instruction but `PARSE_BYTE` tried by itself, which does not ask whether its slot is active (40_parser
R100), keeps such a property of all slots. -/
theorem exec {i : Instr} (hP : SlotInvariant s.cfg P) (hs : s.EverySlot P) (hi : ∀ n b, i ≠ .parseByte n b)
    (h : exec i s = .next t) : t.EverySlot P := by
  rcases instr_cases i with hdispatch | hport | rfl | ⟨k, bytes, rfl⟩ | ⟨k, rfl⟩ | ⟨n, b, rfl⟩ | ⟨n, rfl⟩ | ⟨n, rfl⟩
  · obtain ⟨u, hserved, rfl⟩ := exec_dispatch_next hdispatch h
    exact served (t := u) hP.deactivated hs hserved
  · obtain ⟨r, rfl⟩ := exec_port_next hport h
    exact hs
  · simp only [Machine.exec, execEvConnect] at h
    split at h
    · exact (hs.modifySlot hP.assigned).returning h
    · exact returning (u := s.emit _) hs h
  · exact (hs.receiveBytes hP k bytes).returning (State.onSlot_next h).2
  · refine returning ?_ (State.onSlot_next h).2
    split
    · exact hs.modifySlot hP.deactivated
    · exact hs
  · exact absurd rfl (hi n b)
  · exact (hs.modifySlot hP.resetParser).returning (State.onSlot_next h).2
  · exact (hs.modifySlot hP.deactivated).returning (State.onSlot_next h).2

end State.EverySlot

/-! ## The invariants of 10_state R37 -/

/-- A byte keeps R37(a) and the range of the index, in every case of R100. -/
theorem Parser.Ok.feed {c : Config} {p : Parser} (hp : p.Ok c) (b : Byte) : (p.feed c b).1.Ok c := by
  obtain ⟨hrange, hcollecting⟩ := hp
  rcases Parser.feed_cases c p b with
    ⟨-, hb, e⟩ | ⟨-, -, e⟩ | ⟨hi, -, -, e⟩ | ⟨hi, hst, -, e⟩ | ⟨hi, -, -, e⟩ | ⟨-, -, e⟩ <;> rw [e]
  · exact ⟨by simp, fun _ => by simp [hb]⟩
  · exact ⟨hrange, hcollecting⟩
  · exact ⟨by simp; omega, by simp⟩
  · obtain ⟨hpos, -, hstart⟩ := hcollecting hst
    have hbuf : (p.buf.set p.idx b)[0] = c.startMarker := by
      rw [Vector.getElem_set_ne _ _ (by omega)]
      exact hstart
    exact ⟨by simp; omega, fun _ => ⟨by simp, by simp; omega, hbuf⟩⟩
  · exact ⟨by simp, by simp⟩
  · exact ⟨hrange, by simp⟩

/-- A parser after reset meets R37(a). -/
theorem Parser.reset_ok (c : Config) : Parser.reset.Ok c := by simp [Parser.Ok, Parser.reset]

/-- Both parts of 10_state R37, of one slot. -/
def Slot.Ok (c : Config) (sl : Slot) : Prop := sl.parser.Ok c ∧ (sl.active = false → sl.parser.st = .wait)

theorem Slot.reset_ok (c : Config) : Slot.reset.Ok c := ⟨Parser.reset_ok c, fun _ => rfl⟩

/-- R37 survives what the events do to a slot: a cleared parser is in `WAIT`, and a slot that is fed is active. -/
theorem slotInvariant_ok (c : Config) : SlotInvariant c (Slot.Ok c) where
  deactivated sl _ := ⟨sl.parser.clear_ok c, fun _ => rfl⟩
  assigned sl _ := ⟨sl.parser.clear_ok c, fun _ => rfl⟩
  resetParser sl _ := ⟨sl.parser.clear_ok c, fun _ => rfl⟩
  fed sl b hactive hsl := ⟨hsl.1.feed b, fun hinactive => absurd (hactive.symm.trans hinactive) (by decide)⟩

/-- The invariant of a state is R37 of every slot, with nothing to be tried by itself. -/
theorem State.inv_iff (s : State) : s.Inv ↔ s.EverySlot (Slot.Ok s.cfg) ∧ s.call = none := by
  constructor
  · rintro ⟨hparsers, hinactive, hcall⟩
    exact ⟨fun sl hsl => ⟨hparsers sl hsl, hinactive sl hsl⟩, hcall⟩
  · rintro ⟨hslots, hcall⟩
    exact ⟨fun sl hsl => (hslots sl hsl).1, fun sl hsl => (hslots sl hsl).2, hcall⟩

/-- Slots after reset meet R37, however many. -/
theorem everySlot_ok_of_reset {s : State} {n : Nat} (h : s.slots = List.replicate n Slot.reset) :
    s.EverySlot (Slot.Ok s.cfg) := by
  intro sl hsl
  rw [h] at hsl
  rw [List.eq_of_mem_replicate hsl]
  exact Slot.reset_ok _

theorem State.inv_powerOn (c : Config) (n : Nat) : (State.powerOn c n).Inv :=
  (State.inv_iff _).2 ⟨everySlot_ok_of_reset rfl, rfl⟩

theorem State.Inv.restart {s : State} (h : s.Inv) : s.restart.Inv :=
  (State.inv_iff _).2 ⟨everySlot_ok_of_reset rfl, ((State.inv_iff s).1 h).2⟩

/-- A step keeps the invariant: with nothing to be tried by itself it idles or runs an input, and no input is
`PARSE_BYTE` (10_state R32). -/
theorem State.Inv.step {s t : State} (hs : s.Inv) (h : step s = .next t) : t.Inv := by
  obtain ⟨hslots, hnone⟩ := (State.inv_iff s).1 hs
  rcases step_next_cases h with ⟨rfl, -, -⟩ | ⟨d, _, hsome, -, -⟩ | ⟨bs, rest, i, -, -, hdecode, hexec⟩
  · exact hs
  · cases hnone.symm.trans hsome
  · obtain ⟨-, hinput⟩ := decodeInput_ok.1 hdecode
    have hi : ∀ n b, i ≠ .parseByte n b := by
      rintro n b rfl
      cases hinput
    have hcfg : t.cfg = s.cfg := (kept_exec hexec).cfg
    refine (State.inv_iff t).2 ⟨?_, step_next_call h⟩
    rw [hcfg]
    exact State.EverySlot.exec (s := s.popPending) (slotInvariant_ok _) hslots hi hexec

/-- Every reachable state meets the invariant, by induction on the run. -/
theorem State.Reachable.inv {s : State} (h : s.Reachable) : s.Inv := by
  induction h with
  | powerOn c n => exact State.inv_powerOn c n
  | environment _ _ _ _ ih => exact ih
  | step _ _ _ hstep ih => exact ih.step hstep
  | restart _ _ ih => exact ih.restart

/-- Settles O18: every reachable state meets the invariant, which says R37 of each of its slots. -/
theorem reachableStatesMeetInvariants : Obligations.ReachableStatesMeetInvariants := by
  intro s hs i sl hget
  obtain ⟨hslots, -⟩ := (State.inv_iff s).1 hs.inv
  obtain ⟨⟨-, hcollecting⟩, hinactive⟩ := hslots sl (List.mem_of_getElem? hget)
  exact ⟨hcollecting, hinactive⟩

end Sys2Proof.Machine
end

section
/-! The kinds of 30_encoding R82: which kind each wire frame is of. -/

namespace Sys2Proof

/-- The selectors a configuration chooses differ from each other and from the two the spec fixes (00_scope R8). -/
theorem Config.selectors_ne_of_ok {c : Config} (h : c.ok = true) :
    c.selFw ≠ Config.selHw ∧ c.selVolt ≠ Config.selHw ∧ c.selFw ≠ Config.selDesc ∧ c.selVolt ≠ Config.selDesc ∧
      c.selFw ≠ c.selVolt ∧ Config.selHw ≠ Config.selDesc := by
  simp only [Config.ok, Config.selectorsDistinct, Bool.and_eq_true, bne_iff_ne] at h
  tauto

/-- A wire frame has one of the three lengths of 30_encoding R70. -/
theorem length_of_isWireFrame {c : Config} {f : List Byte} (h : isWireFrame c f = true) :
    f.length = 15 ∨ f.length = 13 ∨ f.length = 5 := by
  simp only [isWireFrame, Bool.and_eq_true, Bool.or_eq_true, beq_iff_eq] at h
  tauto

/-- A 15-byte wire frame is a CAN frame. -/
theorem decode_wireFrame15 {c : Config} {f : List Byte} (hw : isWireFrame c f = true) (hlen : f.length = 15) :
    ∃ b1 b2 b3 b4 d k, decode c (.wireFrame f) = .ok (.canFrame b1 b2 b3 b4 d k) :=
  ⟨_, _, _, _, _, _, (if_pos hw).trans (if_pos hlen)⟩

/-- A 13-byte wire frame is of the reserved kind. -/
theorem decode_wireFrame13 {c : Config} {f : List Byte} (hw : isWireFrame c f = true) (hlen : f.length = 13) :
    ∃ body, decode c (.wireFrame f) = .ok (.reservedF13 body) :=
  ⟨_, (if_pos hw).trans ((if_neg (by simp [hlen])).trans (if_neg (by simp [hlen])))⟩

/-- A 5-byte wire frame to another node is not recognized. -/
theorem decode_shortFrame {c : Config} {f : List Byte} (hw : isWireFrame c f = true) (hlen : f.length = 5)
    (hnode : byteAt f 1 ≠ c.gatewayAddr) :
    decode c (.wireFrame f) = .ok (.shortUnrecognized (byteAt f 1) (byteAt f 2) (byteAt f 3)) := by
  simp [decode, decodeFrame, hw, hlen, hnode]

/-- A 5-byte wire frame to the gateway is a query by its selector (30_encoding R83), and of the kind with an unknown
selector only when the selector is none of the four. -/
theorem decode_queryFrame_cases {c : Config} {f : List Byte} (hw : isWireFrame c f = true) (hlen : f.length = 5)
    (hnode : byteAt f 1 = c.gatewayAddr) :
    (byteAt f 2 = Config.selHw ∧ decode c (.wireFrame f) = .ok (.sysqHwType (byteAt f 3))) ∨
    (byteAt f 2 = c.selFw ∧ decode c (.wireFrame f) = .ok (.sysqFwType (byteAt f 3))) ∨
    (byteAt f 2 = Config.selDesc ∧ decode c (.wireFrame f) = .ok (.sysqDescription (byteAt f 3))) ∨
    (byteAt f 2 = c.selVolt ∧ decode c (.wireFrame f) = .ok (.sysqSupplyVoltage (byteAt f 3))) ∨
    (byteAt f 2 ∉ [Config.selHw, c.selFw, Config.selDesc, c.selVolt] ∧
      decode c (.wireFrame f) = .ok (.sysqUnknown (byteAt f 2) (byteAt f 3))) := by
  simp only [decode, decodeFrame, hw, hlen, hnode, Nat.reduceEqDiff, if_true, if_false]
  split_ifs with hhw hfw hdesc hvolt
  · exact .inl ⟨hhw, rfl⟩
  · exact .inr (.inl ⟨hfw, rfl⟩)
  · exact .inr (.inr (.inl ⟨hdesc, rfl⟩))
  · exact .inr (.inr (.inr (.inl ⟨hvolt, rfl⟩)))
  · exact .inr (.inr (.inr (.inr ⟨by simp [hhw, hfw, hdesc, hvolt], rfl⟩)))

/-- Settles O8: by the three lengths, the node and the selector, each frame decodes to the kind of its row, and the
other rows' conditions fail because lengths and selectors differ (00_scope R8). -/
theorem everyWireFrameHasTheKindOfItsRow : Obligations.EveryWireFrameHasTheKindOfItsRow := by
  intro c f hok hw
  obtain ⟨hfwHw, hvoltHw, hfwDesc, hvoltDesc, hfwVolt, hhwDesc⟩ := Config.selectors_ne_of_ok hok
  rcases length_of_isWireFrame hw with hlen | hlen | hlen
  · obtain ⟨b1, b2, b3, b4, d, k, hkind⟩ := decode_wireFrame15 hw hlen
    simp [hkind, hlen]
  · obtain ⟨body, hkind⟩ := decode_wireFrame13 hw hlen
    simp [hkind, hlen]
  by_cases hnode : byteAt f 1 = c.gatewayAddr
  · rcases decode_queryFrame_cases hw hlen hnode with
      ⟨hsel, hkind⟩ | ⟨hsel, hkind⟩ | ⟨hsel, hkind⟩ | ⟨hsel, hkind⟩ | ⟨hsel, hkind⟩
    · simp [hkind, hlen, hnode, hsel, hfwHw.symm, hvoltHw.symm, hhwDesc]
    · simp [hkind, hlen, hnode, hsel, hfwHw, hfwDesc, hfwVolt]
    · simp [hkind, hlen, hnode, hsel, hhwDesc.symm, hfwDesc.symm, hvoltDesc.symm]
    · simp [hkind, hlen, hnode, hsel, hvoltHw, hvoltDesc, hfwVolt.symm]
    · simp only [List.mem_cons, List.not_mem_nil, or_false, not_or] at hsel
      obtain ⟨hhw, hfw, hdesc, hvolt⟩ := hsel
      simp [hkind, hlen, hnode, hhw, hfw, hdesc, hvolt]
  · simp [decode_shortFrame hw hlen hnode, hlen, hnode]

end Sys2Proof
end

section
/-! The identifier packings (30_encoding R76 to R78): the laws of every packing the configuration admits, and a table
for every pair that meets the laws. -/

namespace Sys2Proof.Machine

/-! ## The laws of R78 -/

/-- `ID_PACK` answers the packed identifier (41_codec R131). -/
theorem exec_idPack (id : Ident) (s : State) :
    exec (.idPack id) s = .next { s with
      result := .idBytes (packIdent s.cfg.packing id).1 (packIdent s.cfg.packing id).2.1
        (packIdent s.cfg.packing id).2.2.1 (packIdent s.cfg.packing id).2.2.2 } := rfl

/-- `ID_UNPACK` answers the unpacked identifier (41_codec R132). -/
theorem exec_idUnpack (b1 b2 b3 b4 : Byte) (s : State) :
    exec (.idUnpack b1 b2 b3 b4) s = .next { s with result := .ident (unpackIdent s.cfg.packing b1 b2 b3 b4) } := rfl

/-- The four bytes `ID_PACK` answers are the packed identifier. -/
theorem packIdent_of_exec_idPack {id : Ident} {s : State} {b1 b2 b3 b4 : Byte}
    (h : exec (.idPack id) s = .next { s with result := .idBytes b1 b2 b3 b4 }) :
    packIdent s.cfg.packing id = (b1, b2, b3, b4) := by
  rw [exec_idPack] at h
  simp only [Host.Outcome.next.injEq, State.mk.injEq, Result.idBytes.injEq, true_and] at h
  obtain ⟨h1, h2, h3, h4⟩ := h
  simp only [← h1, ← h2, ← h3, ← h4]

/-- The words of two halves unpack to these halves, in a layout because each bit has a place of its own, in a table
because no value stands in it twice. -/
theorem unpackWords_pack {p : IdPacking} (hp : p.ok = true) (v : BitVec 13) (u : BitVec 16) :
    unpackWords p (packHi p v) (packLo p u) = v ++ u := by
  cases p with
  | layout l =>
    obtain ⟨hhi, hlo, hhi16, hlo16, hhiNodup, hloNodup⟩ := (IdLayout.ok_iff l).1 hp
    rw [unpackWords, packHi, packLo, gather_scatter v l.hi hhiNodup hhi hhi16,
      gather_scatter u l.lo hloNodup hlo hlo16]
  | table t =>
    obtain ⟨hhi, hlo, hhiNodup, hloNodup⟩ := (IdTable.ok_iff t).1 hp
    obtain ⟨hhiMem, hhiIdx⟩ := ofNat_idxOf hhiNodup hhi v
    obtain ⟨hloMem, hloIdx⟩ := ofNat_idxOf hloNodup hlo u
    rw [unpackWords, packHi, packLo, hhiMem, hloMem, hhiIdx, hloIdx, Bool.and_self, if_pos rfl]

/-- L1 of R78: unpacking undoes packing. -/
theorem unpackIdent_packIdent {p : IdPacking} (hp : p.ok = true) (id : Ident) :
    unpackIdent p (packIdent p id).1 (packIdent p id).2.1 (packIdent p id).2.2.1 (packIdent p id).2.2.2 = id := by
  simp only [unpackIdent, packIdent, upperByte_append_lowerByte, unpackWords_pack hp, upperHalf_append_lowerHalf]

/-- L3 of R78: the lower half of the identifier decides `b3` and `b4`. -/
theorem packIdent_lower {p : IdPacking} {id id' : Ident} (h : id.extractLsb 15 0 = id'.extractLsb 15 0) :
    (packIdent p id).2.2 = (packIdent p id').2.2 := by
  simp only [packIdent, h]

/-- L3 of R78: the upper half of the identifier decides `b1` and `b2`. -/
theorem packIdent_upper {p : IdPacking} {id id' : Ident} (h : id.extractLsb 28 16 = id'.extractLsb 28 16) :
    (packIdent p id).1 = (packIdent p id').1 ∧ (packIdent p id).2.1 = (packIdent p id').2.1 := by
  simp only [packIdent, h, and_self]

/-- Settles O48: L1 is `unpackIdent_packIdent`, L2 the type of an identifier, and L3 with L4 is that `packIdent` is a
function of the packing and packs each half by itself. -/
theorem packingLaws : Obligations.PackingLaws := by
  intro s hp
  refine ⟨fun id => ?_, fun b1 b2 b3 b4 => ?_, fun id id' t t' b1 b2 b3 b4 b1' b2' b3' b4' hpacking h h' => ?_⟩
  · refine ⟨_, _, _, _, exec_idPack id s, ?_⟩
    rw [exec_idUnpack, unpackIdent_packIdent hp]
  · exact ⟨_, BitVec.isLt _, exec_idUnpack b1 b2 b3 b4 s⟩
  · have hpack := packIdent_of_exec_idPack h
    have hpack' := packIdent_of_exec_idPack h'
    rw [← hpacking] at hpack'
    constructor
    · intro hlower
      simpa [hpack, hpack'] using packIdent_lower (p := t.cfg.packing) hlower
    · intro hupper
      simpa [hpack, hpack'] using packIdent_upper (p := t.cfg.packing) hupper

/-! ## A table for every lawful pair -/

/-- A function of words by its values, from word 0 up. -/
def valuesOf {α : Type} {n : Nat} (g : BitVec n → α) : List α := List.ofFn fun i : Fin (2 ^ n) => g (BitVec.ofFin i)

theorem valuesOf_length {α : Type} {n : Nat} (g : BitVec n → α) : (valuesOf g).length = 2 ^ n := List.length_ofFn

theorem valuesOf_getD {α : Type} {n : Nat} (g : BitVec n → α) (v : BitVec n) (a : α) :
    (valuesOf g).getD v.toNat a = g v := by
  simp [valuesOf, List.getD_eq_getElem?_getD, v.isLt]

theorem mem_valuesOf {α : Type} {n : Nat} {g : BitVec n → α} {a : α} : a ∈ valuesOf g ↔ ∃ v, g v = a := by
  simp only [valuesOf, List.mem_ofFn]
  exact ⟨fun ⟨i, hi⟩ => ⟨_, hi⟩, fun ⟨v, hv⟩ => ⟨v.toFin, hv⟩⟩

theorem valuesOf_nodup {α : Type} {n : Nat} {g : BitVec n → α} (hg : Function.Injective g) : (valuesOf g).Nodup :=
  List.nodup_ofFn.2 fun _ _ h => congrArg BitVec.toFin (hg h)

/-- Every word is looked up with its value. -/
theorem lookup_valuesOf {α : Type} {n : Nat} (g : BitVec n → α) (w : BitVec n) :
    (valuesOf fun v => (v, g v)).lookup w = some (g w) := by
  refine lookup_of_forall (fun q hq => ?_) (List.mem_map.2 ⟨_, mem_valuesOf.2 ⟨w, rfl⟩, rfl⟩)
  obtain ⟨v, rfl⟩ := mem_valuesOf.1 hq
  rfl

/-- A pair of functions that meets the laws of 30_encoding R78 (L2 and L4 by its type). -/
structure LawfulPair (pack : Ident → Byte × Byte × Byte × Byte) (unpack : Byte → Byte → Byte → Byte → Ident) :
    Prop where
  unpack_pack : ∀ id, unpack (pack id).1 (pack id).2.1 (pack id).2.2.1 (pack id).2.2.2 = id
  lower : ∀ id id' : Ident, id.extractLsb 15 0 = id'.extractLsb 15 0 → (pack id).2.2 = (pack id').2.2
  upper : ∀ id id' : Ident, id.extractLsb 28 16 = id'.extractLsb 28 16 →
    (pack id).1 = (pack id').1 ∧ (pack id).2.1 = (pack id').2.1

/-- The word `b1:b2` the pair packs an upper half to, with any lower half. -/
def hiWord (pack : Ident → Byte × Byte × Byte × Byte) (v : BitVec 13) : BitVec 16 :=
  (pack (v ++ 0#16)).1 ++ (pack (v ++ 0#16)).2.1

/-- The word `b3:b4` the pair packs a lower half to, with any upper half. -/
def loWord (pack : Ident → Byte × Byte × Byte × Byte) (u : BitVec 16) : BitVec 16 :=
  (pack (0#13 ++ u)).2.2.1 ++ (pack (0#13 ++ u)).2.2.2

/-- What the pair unpacks the words `b1:b2` and `b3:b4` to. -/
def joinWords (unpack : Byte → Byte → Byte → Byte → Ident) (w1 w2 : BitVec 16) : Ident :=
  unpack (upperByte w1) (lowerByte w1) (upperByte w2) (lowerByte w2)

/-- What the pair unpacks the word `b1:b2:b3:b4` to. -/
def joinWord (unpack : Byte → Byte → Byte → Byte → Ident) (w : BitVec 32) : Ident :=
  joinWords unpack (w.extractLsb' 16 16) (w.extractLsb' 0 16)

/-- The pair as a table: the word of each half, and what every four bytes unpack to. -/
def tableOf (pack : Ident → Byte × Byte × Byte × Byte) (unpack : Byte → Byte → Byte → Byte → Ident) : IdTable where
  hi := valuesOf (hiWord pack)
  lo := valuesOf (loWord pack)
  other := valuesOf fun w => (w, joinWord unpack w)

theorem upperByte_append (a b : Byte) : upperByte (a ++ b) = a := BitVec.extractLsb'_append_eq_left

theorem lowerByte_append (a b : Byte) : lowerByte (a ++ b) = b := BitVec.extractLsb'_append_eq_right

theorem upperHalf_append (v : BitVec 13) (u : BitVec 16) : BitVec.extractLsb 28 16 (v ++ u : BitVec 29) = v :=
  BitVec.extractLsb'_append_eq_left

theorem lowerHalf_append (v : BitVec 13) (u : BitVec 16) : BitVec.extractLsb 15 0 (v ++ u : BitVec 29) = u :=
  BitVec.extractLsb'_append_eq_right

theorem joinWords_append (unpack : Byte → Byte → Byte → Byte → Ident) (b1 b2 b3 b4 : Byte) :
    joinWords unpack (b1 ++ b2) (b3 ++ b4) = unpack b1 b2 b3 b4 := by
  simp only [joinWords, upperByte_append, lowerByte_append]

theorem joinWord_append (unpack : Byte → Byte → Byte → Byte → Ident) (w1 w2 : BitVec 16) :
    joinWord unpack (w1 ++ w2) = joinWords unpack w1 w2 := by
  rw [joinWord, BitVec.extractLsb'_append_eq_left, BitVec.extractLsb'_append_eq_right]

namespace LawfulPair

variable {pack : Ident → Byte × Byte × Byte × Byte} {unpack : Byte → Byte → Byte → Byte → Ident}

/-- The upper half of an identifier decides `b1:b2`. -/
theorem hiWord_upperHalf (h : LawfulPair pack unpack) (id : Ident) :
    hiWord pack (id.extractLsb 28 16) = (pack id).1 ++ (pack id).2.1 := by
  obtain ⟨h1, h2⟩ := h.upper (id.extractLsb 28 16 ++ 0#16) id (upperHalf_append _ _)
  rw [hiWord, h1, h2]

/-- The lower half of an identifier decides `b3:b4`. -/
theorem loWord_lowerHalf (h : LawfulPair pack unpack) (id : Ident) :
    loWord pack (id.extractLsb 15 0) = (pack id).2.2.1 ++ (pack id).2.2.2 := by
  rw [loWord, h.lower (0#13 ++ id.extractLsb 15 0) id (lowerHalf_append _ _)]

/-- The words of two halves are joined to these halves. -/
theorem joinWords_hiWord_loWord (h : LawfulPair pack unpack) (v : BitVec 13) (u : BitVec 16) :
    joinWords unpack (hiWord pack v) (loWord pack u) = v ++ u := by
  have hhi := h.hiWord_upperHalf (v ++ u)
  have hlo := h.loWord_lowerHalf (v ++ u)
  rw [upperHalf_append] at hhi
  rw [lowerHalf_append] at hlo
  rw [hhi, hlo, joinWords_append, h.unpack_pack]

/-- No value stands in the table twice, since the halves can be read back from their words. -/
theorem tableOf_ok (h : LawfulPair pack unpack) : (tableOf pack unpack).ok = true := by
  have hhi : Function.Injective (hiWord pack) := fun v v' e => by
    have hjoin : v ++ 0#16 = v' ++ 0#16 := by
      rw [← h.joinWords_hiWord_loWord v 0#16, ← h.joinWords_hiWord_loWord v' 0#16, e]
    exact (append_eq_append_iff.1 hjoin).1
  have hlo : Function.Injective (loWord pack) := fun u u' e => by
    have hjoin : 0#13 ++ u = 0#13 ++ u' := by
      rw [← h.joinWords_hiWord_loWord 0#13 u, ← h.joinWords_hiWord_loWord 0#13 u', e]
    exact (append_eq_append_iff.1 hjoin).2
  simp only [IdTable.ok_iff, tableOf, valuesOf_length, valuesOf_nodup hhi, valuesOf_nodup hlo, and_self]

/-- The table packs every identifier as the pair does. -/
theorem packIdent_tableOf (h : LawfulPair pack unpack) (id : Ident) :
    packIdent (.table (tableOf pack unpack)) id = pack id := by
  simp only [packIdent, packHi, packLo, tableOf, valuesOf_getD, h.hiWord_upperHalf, h.loWord_lowerHalf,
    upperByte_append, lowerByte_append]

/-- The table unpacks two words as the pair does: words of two halves to these halves, any others by looking them
up. -/
theorem unpackWords_tableOf (h : LawfulPair pack unpack) (w1 w2 : BitVec 16) :
    unpackWords (.table (tableOf pack unpack)) w1 w2 = joinWords unpack w1 w2 := by
  by_cases hmem : w1 ∈ valuesOf (hiWord pack) ∧ w2 ∈ valuesOf (loWord pack)
  · obtain ⟨⟨v, rfl⟩, ⟨u, rfl⟩⟩ := hmem.imp mem_valuesOf.1 mem_valuesOf.1
    rw [h.joinWords_hiWord_loWord, ← unpackWords_pack (p := .table (tableOf pack unpack)) h.tableOf_ok v u]
    simp only [packHi, packLo, tableOf, valuesOf_getD]
  · have hlookup : (tableOf pack unpack).other.lookup (w1 ++ w2) = some (joinWords unpack w1 w2) := by
      rw [tableOf, lookup_valuesOf (joinWord unpack), joinWord_append]
    rw [unpackWords, hlookup, if_neg (by simpa only [tableOf, Bool.and_eq_true, List.contains_iff_mem] using hmem),
      Option.getD_some]

/-- The table unpacks every four bytes as the pair does. -/
theorem unpackIdent_tableOf (h : LawfulPair pack unpack) (b1 b2 b3 b4 : Byte) :
    unpackIdent (.table (tableOf pack unpack)) b1 b2 b3 b4 = unpack b1 b2 b3 b4 := by
  rw [unpackIdent, h.unpackWords_tableOf, joinWords_append]

end LawfulPair

/-- Settles O49: the packing is the pair written down as a table. -/
theorem everyLawfulPairIsAPacking : Obligations.EveryLawfulPairIsAPacking := by
  intro pack unpack hunpack hlower hupper
  have h : LawfulPair pack unpack := ⟨hunpack, hlower, hupper⟩
  refine ⟨.table (tableOf pack unpack), h.tableOf_ok, fun s hs => ⟨fun id => ?_, fun b1 b2 b3 b4 => ?_⟩⟩
  · rw [exec_idPack, hs, h.packIdent_tableOf]
  · rw [exec_idUnpack, hs, h.unpackIdent_tableOf]

end Sys2Proof.Machine
end

section
/-! The parser (40_parser): what an operation on one slot answers, what a byte can complete, and what a parser in
`WAIT` makes of a whole list of bytes. -/

namespace Sys2Proof.Machine

/-! ## Operations on one slot (40_parser R100, R111) -/

/-- An id that names a slot is not refused. -/
theorem State.onSlot_of_get {s : State} {i : Nat} {sl : Slot} (h : s.slots[i]? = some sl) (a : Answer) :
    s.onSlot i a = a :=
  if_pos (List.getElem?_eq_some_iff.1 h).1

/-- Changing a slot that exists is writing what it is changed to. -/
theorem State.modifySlot_of_get {s : State} {i : Nat} {sl : Slot} (h : s.slots[i]? = some sl) (g : Slot → Slot) :
    s.modifySlot i g = s.setSlot i (g sl) := by
  rw [State.modifySlot, List.modify_eq_set_getElem?, h]
  rfl

/-- `PARSE_BYTE` feeds the slot's parser and returns what it reports. -/
theorem exec_parseByte {s : State} {i : Nat} {sl : Slot} (h : s.slots[i]? = some sl) (b : Byte) :
    exec (.parseByte i b) s = .next ((s.setSlot i { sl with parser := (sl.parser.feed s.cfg b).1 }).setResult
      (.parsed (sl.parser.feed s.cfg b).2.isSome ((sl.parser.feed s.cfg b).2.getD []))) := by
  rw [exec, execParseByte, State.onSlot_of_get h, State.parseByte_of_get h]
  rfl

/-- `EV_BYTES` on a slot that exists answers what receiving the bytes leaves. -/
theorem exec_evBytes {s : State} {k : Nat} {sl : Slot} (h : s.slots[k]? = some sl) (bytes : List Byte) :
    exec (.evBytes k bytes) s = .next ((s.receiveBytes k bytes).setResult .nothing) :=
  State.onSlot_of_get h _

/-- The completion test of R100: a terminal length and the end marker. -/
theorem frameReady_iff {c : Config} {n : Nat} {b : Byte} :
    frameReady c n b = true ↔ (n = 5 ∨ n = 13 ∨ n = 15) ∧ b = c.endMarker := by
  simp [frameReady, terminalLength, or_assoc]

theorem frameReady_eq_false_iff {c : Config} {n : Nat} {b : Byte} :
    frameReady c n b = false ↔ ¬ ((n = 5 ∨ n = 13 ∨ n = 15) ∧ b = c.endMarker) := by
  rw [← frameReady_iff, Bool.not_eq_true]

/-- A byte that completes nothing is appended, and the parser goes on unless the buffer is full (R103). -/
theorem Parser.feed_append {c : Config} {p : Parser} {b : Byte} (h : p.st = .collecting) (hi : p.idx < 16)
    (hr : frameReady c (p.idx + 1) b = false) :
    p.feed c b = ({ st := if p.idx + 1 > 15 then .wait else .collecting
                    idx := p.idx + 1, buf := p.buf.set p.idx b }, none) := by
  by_cases h15 : p.idx = 15
  · simp [Parser.feed_overflow h h15 hr, h15]
  · have hlt : p.idx < 15 := by omega
    have hroom : ¬ p.idx + 1 > 15 := by omega
    rw [Parser.feed_more h hlt hr, if_neg hroom]

/-- Settles O10: `PARSE_BYTE` is the feed of the slot's parser, which has one equation per branch of R100. -/
theorem parseByteTransitions : Obligations.ParseByteTransitions := by
  intro s i b sl hget
  rw [exec_parseByte hget]
  refine ⟨fun hst hb => ?_, fun hst hb => ?_, fun hi hst hr => ?_, fun hi hst hr => ?_, fun hi hst => ?_⟩
  · rw [Parser.feed_wait_other hst hb]
    rw [State.setSlot_self hget]
    rfl
  · rw [Parser.feed_wait_start hst hb]
    rfl
  · rw [Parser.feed_ready hst hi (frameReady_iff.2 hr), Parser.take_append hi]
    rfl
  · rw [Parser.feed_append hst hi (frameReady_eq_false_iff.2 hr)]
    rfl
  · rw [Parser.feed_full hst hi]
    rfl

/-- Settles O11: the slot is the one changed, and its parser is cleared. -/
theorem resetParserResult : Obligations.ResetParserResult := by
  intro s i sl hget
  rw [exec, execResetParser, State.onSlot_of_get hget, State.resetParser, State.modifySlot_of_get hget]
  rfl

/-! ## Reported frames (40_parser R109) -/

/-- A frame is reported only at a terminal length with the end marker, and is the collected bytes with it. -/
theorem Parser.feed_reports {c : Config} {p : Parser} {b : Byte} {f : List Byte} (h : (p.feed c b).2 = some f) :
    p.idx < 16 ∧ p.st = .collecting ∧ frameReady c (p.idx + 1) b = true ∧ f = p.buf.toList.take p.idx ++ [b] := by
  rcases Parser.feed_cases c p b with
    ⟨-, -, e⟩ | ⟨-, -, e⟩ | ⟨hi, hst, hr, e⟩ | ⟨_, -, -, e⟩ | ⟨_, -, -, e⟩ | ⟨-, -, e⟩ <;> rw [e] at h
  case inr.inr.inl =>
    rw [Parser.take_append hi] at h
    exact ⟨hi, hst, hr, (Option.some.inj h).symm⟩
  all_goals cases h

/-- The collected bytes begin with byte 0 of the buffer. -/
theorem Parser.head?_take {p : Parser} (h : 1 ≤ p.idx) : (p.buf.toList.take p.idx).head? = some p.buf[0] := by
  rw [List.head?_take, if_neg (by omega), List.head?_eq_getElem?, Vector.getElem?_toList]
  simp

/-- Settles O15: the length and the end marker are the completion test, the start marker is R37(a). -/
theorem reportedFramesAreWireFrames : Obligations.ReportedFramesAreWireFrames := by
  rintro c p b f ⟨-, hcollecting⟩ hf
  obtain ⟨hi, hst, hr, rfl⟩ := Parser.feed_reports hf
  obtain ⟨hpos, -, hstart⟩ := hcollecting hst
  obtain ⟨hlen, hb⟩ := frameReady_iff.1 hr
  have hcount : (p.buf.toList.take p.idx ++ [b]).length = p.idx + 1 := by simp; omega
  refine ⟨hcount ▸ hlen, ?_, ?_⟩
  · rw [List.head?_append, Parser.head?_take hpos, hstart, Option.some_or]
  · rw [List.getLast?_concat, hb]

/-! ## A parser fed a list (40_parser R105) -/

theorem Parser.feedList_append (c : Config) (p : Parser) (as bs : List Byte) :
    p.feedList c (as ++ bs) =
      (((p.feedList c as).1.feedList c bs).1, (p.feedList c as).2 ++ ((p.feedList c as).1.feedList c bs).2) := by
  induction as generalizing p with
  | nil => rfl
  | cons a as ih => simp only [List.cons_append, Parser.feedList, ih]

/-- The parser is collecting, and these are the bytes it holds. -/
structure Parser.Holds (p : Parser) (f : List Byte) : Prop where
  st : p.st = .collecting
  idx : p.idx = f.length
  bytes : p.buf.toList.take p.idx = f

/-- The start marker in `WAIT` is the first byte held. -/
theorem Parser.holds_of_start {c : Config} {p : Parser} (h : p.st = .wait) :
    (p.feed c c.startMarker).2 = none ∧ (p.feed c c.startMarker).1.Holds [c.startMarker] := by
  rw [Parser.feed_wait_start h rfl]
  exact ⟨rfl, rfl, rfl, by simpa using Parser.take_append (p := { p with idx := 0 }) (b := c.startMarker) (by simp)⟩

namespace Parser.Holds

variable {c : Config} {p : Parser} {f : List Byte} {b : Byte}

theorem feed_more (h : p.Holds f) (hlen : f.length < 15) (hr : frameReady c (f.length + 1) b = false) :
    (p.feed c b).2 = none ∧ (p.feed c b).1.Holds (f ++ [b]) := by
  obtain ⟨hst, hidx, hbytes⟩ := h
  rw [← hidx] at hlen hr
  rw [Parser.feed_more hst hlen hr]
  exact ⟨rfl, rfl, by simp [hidx], (Parser.take_append (by omega)).trans (by rw [hbytes])⟩

theorem feed_ready (h : p.Holds f) (hlen : f.length < 16) (hr : frameReady c (f.length + 1) b = true) :
    (p.feed c b).2 = some (f ++ [b]) ∧ (p.feed c b).1.st = .wait := by
  obtain ⟨hst, hidx, hbytes⟩ := h
  rw [← hidx] at hlen hr
  rw [Parser.feed_ready hst hlen hr, Parser.take_append hlen, hbytes]
  exact ⟨rfl, rfl⟩

theorem feed_overflow (h : p.Holds f) (hlen : f.length = 15) :
    (p.feed c b).2 = none ∧ (p.feed c b).1.st = .wait := by
  obtain ⟨hst, hidx, -⟩ := h
  have h15 : p.idx = 15 := hidx.trans hlen
  have hr : frameReady c (p.idx + 1) b = false := by simp [h15, frameReady_eq_false_iff]
  rw [Parser.feed_overflow hst h15 hr]
  exact ⟨rfl, rfl⟩

end Parser.Holds

/-- No byte before `cs[n]` completes a frame; byte `j` of `cs` is the byte `j + 2` after a start marker. -/
def NoFrameBefore (c : Config) (cs : List Byte) (n : Nat) : Prop :=
  ∀ j < n, frameReady c (j + 2) (byteAt cs j) = false

/-- Only the three bytes at which a frame can end matter. -/
theorem noFrameBefore_of_ne {c : Config} {cs : List Byte} {n : Nat} (h3 : 3 < n → byteAt cs 3 ≠ c.endMarker)
    (h11 : 11 < n → byteAt cs 11 ≠ c.endMarker) (h13 : 13 < n → byteAt cs 13 ≠ c.endMarker) :
    NoFrameBefore c cs n := by
  intro j hj
  rw [frameReady_eq_false_iff]
  rintro ⟨h | h | h, hb⟩
  · obtain rfl : j = 3 := by omega
    exact h3 hj hb
  · obtain rfl : j = 11 := by omega
    exact h11 hj hb
  · obtain rfl : j = 13 := by omega
    exact h13 hj hb

/-- One byte more of a list. -/
theorem take_succ_eq_concat_byteAt {cs : List Byte} {n : Nat} (h : n < cs.length) :
    cs.take (n + 1) = cs.take n ++ [byteAt cs n] := by
  rw [List.take_succ_eq_append_getElem h, byteAt, List.getD_eq_getElem _ _ h]

section
variable {c : Config} {p : Parser} {cs : List Byte} {n : Nat}

/-- Byte `n` after the start marker is fed to the parser that the bytes before it left. -/
theorem Parser.feedList_start_take_succ (hn : n < cs.length) :
    p.feedList c (c.startMarker :: cs.take (n + 1)) =
      (((p.feedList c (c.startMarker :: cs.take n)).1.feed c (byteAt cs n)).1,
        (p.feedList c (c.startMarker :: cs.take n)).2 ++
          [((p.feedList c (c.startMarker :: cs.take n)).1.feed c (byteAt cs n)).2]) := by
  rw [take_succ_eq_concat_byteAt hn, ← List.cons_append, Parser.feedList_append]
  rfl

/-- Until a frame is complete or the buffer full, the parser reports nothing and holds what was fed. -/
theorem Parser.feedList_collects (hp : p.st = .wait) (hn : n ≤ cs.length) (hcap : n ≤ 14)
    (hno : NoFrameBefore c cs n) :
    (p.feedList c (c.startMarker :: cs.take n)).2 = List.replicate (n + 1) none ∧
      (p.feedList c (c.startMarker :: cs.take n)).1.Holds (c.startMarker :: cs.take n) := by
  induction n with
  | zero =>
    obtain ⟨hnone, hholds⟩ := Parser.holds_of_start (c := c) hp
    exact ⟨congrArg (fun r => [r]) hnone, hholds⟩
  | succ n ih =>
    obtain ⟨hnones, hholds⟩ := ih (by omega) (by omega) fun j hj => hno j (by omega)
    have hlen : (c.startMarker :: cs.take n).length = n + 1 := by simp; omega
    obtain ⟨hnone, hmore⟩ := hholds.feed_more (b := byteAt cs n) (by omega) (by rw [hlen]; exact hno n n.lt_succ_self)
    rw [Parser.feedList_start_take_succ hn, hnones, hnone]
    refine ⟨List.replicate_succ'.symm, ?_⟩
    rwa [take_succ_eq_concat_byteAt hn]

/-- The first byte that completes a frame: the frame is all that was fed. -/
theorem Parser.feedList_frame (hp : p.st = .wait) (hn : n < cs.length) (hcap : n ≤ 14) (hno : NoFrameBefore c cs n)
    (hr : frameReady c (n + 2) (byteAt cs n) = true) :
    (p.feedList c (c.startMarker :: cs.take (n + 1))).2 =
        List.replicate (n + 1) none ++ [some (c.startMarker :: cs.take (n + 1))] ∧
      (p.feedList c (c.startMarker :: cs.take (n + 1))).1.st = .wait := by
  obtain ⟨hnones, hholds⟩ := Parser.feedList_collects hp hn.le hcap hno
  have hlen : (c.startMarker :: cs.take n).length = n + 1 := by simp; omega
  obtain ⟨hsome, hwait⟩ := hholds.feed_ready (b := byteAt cs n) (by omega) (by rwa [hlen])
  rw [Parser.feedList_start_take_succ hn, hnones, hsome, take_succ_eq_concat_byteAt hn]
  exact ⟨rfl, hwait⟩

/-- With no frame by then, the sixteenth byte fills the buffer and is dropped with the others (R103). -/
theorem Parser.feedList_overflows (hp : p.st = .wait) (hlen : cs.length = 15) (hno : NoFrameBefore c cs 14) :
    (p.feedList c (c.startMarker :: cs)).2 = List.replicate 16 none ∧
      (p.feedList c (c.startMarker :: cs)).1.st = .wait := by
  obtain ⟨hnones, hholds⟩ := Parser.feedList_collects hp (by omega) le_rfl hno
  obtain ⟨hnone, hwait⟩ := hholds.feed_overflow (c := c) (b := byteAt cs 14) (by simp [hlen])
  have hall : cs = cs.take (14 + 1) := (List.take_of_length_le hlen.le).symm
  rw [hall, Parser.feedList_start_take_succ (by omega), hnones, hnone]
  exact ⟨rfl, hwait⟩

end

/-- Settles O13: the frame ends at the least of the three bytes that is the end marker, else the buffer overflows. -/
theorem frameRecognition : Obligations.FrameRecognition := by
  intro c p cs hp hlen
  refine ⟨fun h3 => ?_, fun h3 h11 => ?_, fun h3 h11 h13 => ?_, fun h3 h11 h13 => ?_⟩
  · exact Parser.feedList_frame hp (n := 3) (by omega) (by omega)
      (noFrameBefore_of_ne (by omega) (by omega) (by omega)) (frameReady_iff.2 ⟨by omega, h3⟩)
  · exact Parser.feedList_frame hp (n := 11) (by omega) (by omega)
      (noFrameBefore_of_ne (fun _ => h3) (by omega) (by omega)) (frameReady_iff.2 ⟨by omega, h11⟩)
  · exact Parser.feedList_frame hp (n := 13) (by omega) (by omega)
      (noFrameBefore_of_ne (fun _ => h3) (fun _ => h11) (by omega)) (frameReady_iff.2 ⟨by omega, h13⟩)
  · exact Parser.feedList_overflows hp hlen (noFrameBefore_of_ne (fun _ => h3) (fun _ => h11) fun _ => h13)

/-! ## Noise (40_parser R106) -/

/-- Noise leaves a parser in `WAIT` as it is, and nothing is reported. -/
theorem Parser.feedList_noise {c : Config} {p : Parser} {noise : List Byte} (hp : p.st = .wait)
    (hnoise : ∀ b ∈ noise, b ≠ c.startMarker) :
    p.feedList c noise = (p, List.replicate noise.length none) := by
  induction noise with
  | nil => rfl
  | cons b bs ih =>
    obtain ⟨hb, hbs⟩ := List.forall_mem_cons.1 hnoise
    simp only [Parser.feedList, Parser.feed_wait_other hp hb, ih hbs, List.length_cons, List.replicate_succ]

/-- A byte of noise for a slot in `WAIT` is parsed or discarded, and either changes nothing. -/
theorem State.receiveByte_noise {s : State} {k : Nat} {sl : Slot} {b : Byte} (hget : s.slots[k]? = some sl)
    (hst : sl.parser.st = .wait) (hb : b ≠ s.cfg.startMarker) : s.receiveByte k b = s := by
  cases hk : s.isActive k with
  | false => exact State.receiveByte_of_inactive hk b
  | true =>
    simp only [State.receiveByte, hk, if_true, State.parseByte_of_get hget, Parser.feed_wait_other hst hb]
    exact State.setSlot_self hget

theorem State.receiveBytes_noise {s : State} {k : Nat} {sl : Slot} {noise : List Byte} (hget : s.slots[k]? = some sl)
    (hst : sl.parser.st = .wait) (hnoise : ∀ b ∈ noise, b ≠ s.cfg.startMarker) : s.receiveBytes k noise = s := by
  induction noise with
  | nil => rfl
  | cons b bs ih =>
    obtain ⟨hb, hbs⟩ := List.forall_mem_cons.1 hnoise
    rw [State.receiveBytes_cons, State.receiveByte_noise hget hst hb, ih hbs]

theorem State.receiveBytes_append (k : Nat) (as bs : List Byte) (s : State) :
    s.receiveBytes k (as ++ bs) = (s.receiveBytes k as).receiveBytes k bs := List.foldl_append

/-- A 5-byte wire frame is a start marker and four bytes, the last the end marker. -/
theorem wireFrame5_eq_cons {c : Config} {f : List Byte} (hw : isWireFrame c f = true) (hlen : f.length = 5) :
    ∃ cs, f = c.startMarker :: cs ∧ cs.length = 4 ∧ byteAt cs 3 = c.endMarker := by
  simp only [isWireFrame, Bool.and_eq_true, beq_iff_eq] at hw
  obtain ⟨⟨-, hstart⟩, hend⟩ := hw
  obtain ⟨cs, rfl⟩ := List.head?_eq_some_iff.1 hstart
  have h4 : cs.length = 4 := Nat.succ.inj hlen
  refine ⟨cs, rfl, h4, ?_⟩
  rw [List.getLast?_eq_getElem?, hlen, List.getElem?_cons_succ] at hend
  rw [byteAt, List.getD_eq_getElem?_getD, hend, Option.getD_some]

/-- A parser in `WAIT` completes a 5-byte wire frame at its last byte, and nothing before. -/
theorem Parser.feedList_wireFrame5 {c : Config} {p : Parser} {f : List Byte} (hp : p.st = .wait)
    (hw : isWireFrame c f = true) (hlen : f.length = 5) :
    (p.feedList c f).2 = List.replicate 4 none ++ [some f] := by
  obtain ⟨cs, rfl, h4, hend⟩ := wireFrame5_eq_cons hw hlen
  have hall : cs.take (3 + 1) = cs := List.take_of_length_le h4.le
  have hframe := Parser.feedList_frame hp (n := 3) (by omega) (by omega)
    (noFrameBefore_of_ne (by omega) (by omega) (by omega)) (frameReady_iff.2 ⟨by omega, hend⟩)
  rw [hall] at hframe
  exact hframe.1

/-- Settles O14: noise leaves the slot and its parser as they are, so what follows meets the same state, and a 5-byte
wire frame after it is the one completed. -/
theorem noiseIsDiscarded : Obligations.NoiseIsDiscarded := by
  intro s k sl noise more hget hst hnoise
  have hsame : s.receiveBytes k noise = s := State.receiveBytes_noise hget hst hnoise
  refine ⟨?_, ?_, fun hw hlen => ?_⟩
  · rw [exec_evBytes hget, hsame]
    rfl
  · rw [exec_evBytes hget, exec_evBytes hget, State.receiveBytes_append, hsame]
  · rw [Parser.feedList_append, Parser.feedList_noise hst hnoise, Parser.feedList_wireFrame5 hst hw hlen]
    simp

end Sys2Proof.Machine
end

section
/-! The codec ports (41_codec): that they are pure, what each answers, the checksum and the checks. -/

namespace Sys2Proof.Machine

/-! ## Purity (41_codec R137) -/

/-- A port's result is a function of the configuration, or the port is refused in every state. -/
theorem exec_port_eq {i : Instr} (hp : isPort i = true) :
    (∃ g : Config → Result, ∀ s, exec i s = s.returning (g s.cfg)) ∨ ∃ r, ∀ s, exec i s = .refused r := by
  cases i
  case checksum f =>
    cases h : checksumOf f with
    | some b => exact .inl ⟨fun _ => .checksum b, fun s => by simp only [exec, execChecksum, h]⟩
    | none => exact .inr ⟨.checksumShortInput f.length, fun s => by simp only [exec, execChecksum, h]⟩
  case idPack id =>
    exact .inl ⟨fun c => .idBytes (packIdent c.packing id).1 (packIdent c.packing id).2.1
      (packIdent c.packing id).2.2.1 (packIdent c.packing id).2.2.2, fun _ => rfl⟩
  case idUnpack b1 b2 b3 b4 => exact .inl ⟨fun c => .ident (unpackIdent c.packing b1 b2 b3 b4), fun _ => rfl⟩
  case encode m => exact .inl ⟨fun c => .frame (encodeMsg c m), fun _ => rfl⟩
  case decode f => exact .inl ⟨fun c => .decoded (decodeMsg c.packing f), fun _ => rfl⟩
  case validate f => exact .inl ⟨fun c => .valid (validateFrame c f), fun _ => rfl⟩
  case decodeStrict f => exact .inl ⟨fun c => .decoded (decodeStrictMsg c f), fun _ => rfl⟩
  case respond f => exact .inl ⟨fun c => .replies (respondTo c f).1 (respondTo c f).2, fun _ => rfl⟩
  all_goals cases hp

/-- Settles O58: two states of one configuration are answered the same result, or both are refused. -/
theorem portsArePure : Obligations.PortsArePure := by
  intro i s s' hp hcfg
  rcases exec_port_eq hp with ⟨g, hg⟩ | ⟨r, hr⟩
  · have hs' : exec i s' = s'.returning (g s.cfg) := by rw [hcfg, hg]
    rw [hg, hs']
    refine ⟨fun t h => ?_, fun r h => nomatch h⟩
    obtain rfl := State.returning_next h
    exact ⟨rfl, rfl⟩
  · rw [hr, hr]
    exact ⟨fun t h => (nomatch h), fun r' h => h⟩

/-! ## Answers (41_codec R130 to R136) -/

/-- Answers that differ in the result only are the same when the results are. -/
theorem next_result_inj {s : State} {r r' : Result} :
    (Host.Outcome.next { s with result := r } : Answer) = .next { s with result := r' } ↔ r = r' := by
  simp

theorem exec_encode (m : CanMsg) (s : State) :
    exec (.encode m) s = .next { s with result := .frame (encodeMsg s.cfg m) } := rfl

theorem exec_decode (f : List Byte) (s : State) :
    exec (.decode f) s = .next { s with result := .decoded (decodeMsg s.cfg.packing f) } := rfl

theorem exec_validate (f : List Byte) (s : State) :
    exec (.validate f) s = .next { s with result := .valid (validateFrame s.cfg f) } := rfl

theorem exec_decodeStrict (f : List Byte) (s : State) :
    exec (.decodeStrict f) s = .next { s with result := .decoded (decodeStrictMsg s.cfg f) } := rfl

theorem exec_checksum {f : List Byte} (h : 13 ≤ f.length) (s : State) :
    exec (.checksum f) s = .next { s with result := .checksum (cks f) } := by
  simp only [exec, execChecksum, checksumOf, if_neg h.not_gt]
  rfl

theorem exec_checksum_short {f : List Byte} (h : f.length < 13) (s : State) :
    exec (.checksum f) s = .refused (.checksumShortInput f.length) := by
  simp only [exec, execChecksum, checksumOf, if_pos h]

/-- The byte `CHECKSUM` answers for a list long enough. -/
theorem exec_checksum_eq_iff {f : List Byte} (h : 13 ≤ f.length) {s : State} {b : Byte} :
    exec (.checksum f) s = .next { s with result := .checksum b } ↔ b = cks f := by
  rw [exec_checksum h, next_result_inj, Result.checksum.injEq, eq_comm]

theorem exec_validate_true_iff {f : List Byte} {s : State} :
    exec (.validate f) s = .next { s with result := .valid true } ↔ validateFrame s.cfg f = true := by
  rw [exec_validate, next_result_inj, Result.valid.injEq]

/-! ## Bytes of a list (00_scope R11) -/

/-- Consecutive bytes of a list, each by its place. -/
theorem take_drop_eq_map_byteAt {f : List Byte} {a n : Nat} (h : a + n ≤ f.length) :
    (f.drop a).take n = (List.range n).map fun k => byteAt f (a + k) := by
  refine List.ext_getElem (by simp; omega) fun k hk _ => ?_
  simp only [List.length_take, List.length_drop] at hk
  simp [byteAt, List.getD_eq_getElem?_getD, show a + k < f.length by omega]

/-- A list of 15 bytes: byte 0, the twelve bytes a codec reads, and the last two. -/
theorem eq_cons_body_of_length {f : List Byte} (h : f.length = 15) :
    f = byteAt f 0 :: (f.drop 1).take 12 ++ [byteAt f 13, byteAt f 14] := by
  have hall := take_drop_eq_map_byteAt (f := f) (a := 0) (n := 15) (by omega)
  rw [List.drop_zero, List.take_of_length_le (by omega)] at hall
  rw [take_drop_eq_map_byteAt (by omega)]
  exact hall

/-! ## Checksum (41_codec R130, R135, R136) -/

/-- A byte sum wraps modulo 256. -/
theorem ofNat_sum_toNat (bs : List Byte) : BitVec.ofNat 8 (bs.map BitVec.toNat).sum = bs.sum := by
  induction bs with
  | nil => rfl
  | cons b bs ih =>
    rw [List.map_cons, List.sum_cons, BitVec.ofNat_add, ih, BitVec.ofNat_toNat, BitVec.setWidth_eq, List.sum_cons]

/-- The checksum is the byte sum of bytes 1 to 12 (30_encoding R74). -/
theorem cks_eq_sum (f : List Byte) : cks f = ((f.drop 1).take 12).sum := ofNat_sum_toNat _

/-- Settles O45: the byte sum is the twelve bytes added one by one. -/
theorem checksumResult : Obligations.ChecksumResult := by
  refine fun s f => ⟨fun h => (exec_checksum_eq_iff h).2 ?_, fun h => exec_checksum_short h s⟩
  rw [cks_eq_sum, take_drop_eq_map_byteAt (by omega)]
  simp [List.range_succ, BitVec.add_assoc]

theorem validateFrame_iff {c : Config} {f : List Byte} : validateFrame c f = true ↔
    f.length = 15 ∧ byteAt f 0 = c.startMarker ∧ byteAt f 14 = c.endMarker ∧ byteAt f 13 = cks f := by
  simp [validateFrame, and_assoc]

/-- Settles O52: `validateFrame_iff`, byte 13 being what `CHECKSUM` answers. -/
theorem validateResult : Obligations.ValidateResult := by
  refine fun s f => ⟨_, exec_validate f s, validateFrame_iff.trans (and_congr_right fun h => ?_)⟩
  rw [exec_checksum_eq_iff (by omega)]

/-! ## Strict decoding (41_codec R136) -/

/-- With no check failing, strict decoding is decoding. -/
theorem decodeStrictMsg_of_validateFrame {c : Config} {f : List Byte} (h : validateFrame c f = true) :
    decodeStrictMsg c f = decodeMsg c.packing f := by
  obtain ⟨hlen, hstart, hend, hcks⟩ := validateFrame_iff.1 h
  simp only [decodeStrictMsg, hlen, hstart, hend, hcks, ne_eq, not_true_eq_false, if_false]

/-- Strict decoding succeeds on the lists that validate, since a failing check answers its own failure. -/
theorem validateFrame_iff_decodeStrictMsg_ok {c : Config} {f : List Byte} :
    validateFrame c f = true ↔ ∃ m, decodeStrictMsg c f = .ok m := by
  constructor
  · intro h
    exact ⟨_, (decodeStrictMsg_of_validateFrame h).trans (decodeMsg_of_length (validateFrame_iff.1 h).1)⟩
  · rintro ⟨m, h⟩
    unfold decodeStrictMsg at h
    split_ifs at h with hlen hstart hend hcks
    simp only [ne_eq, not_not] at hlen hstart hend hcks
    exact validateFrame_iff.2 ⟨hlen, hstart, hend, hcks⟩

/-- Settles O53: the checks in their order, and with none failing what `DECODE` answers. -/
theorem decodeStrictResult : Obligations.DecodeStrictResult := by
  intro s f
  refine ⟨fun hlen => ?_, fun hlen hstart => ?_, fun hlen hstart hend => ?_, fun hlen hstart hend hcks => ?_, ?_,
    fun h => ?_⟩
  · rw [exec_decodeStrict, decodeStrictMsg, if_pos hlen]
  · rw [exec_decodeStrict, decodeStrictMsg, if_neg (not_not.2 hlen), if_pos hstart]
  · rw [exec_decodeStrict, decodeStrictMsg, if_neg (not_not.2 hlen), if_neg (not_not.2 hstart), if_pos hend]
  · rw [Ne, exec_checksum_eq_iff (by omega)] at hcks
    rw [exec_decodeStrict, decodeStrictMsg, if_neg (not_not.2 hlen), if_neg (not_not.2 hstart),
      if_neg (not_not.2 hend), if_pos hcks]
  · simp only [exec_validate_true_iff, validateFrame_iff_decodeStrictMsg_ok, exec_decodeStrict, next_result_inj,
      Result.decoded.injEq]
  · rw [exec_decodeStrict, exec_decode, decodeStrictMsg_of_validateFrame (exec_validate_true_iff.1 h)]

end Sys2Proof.Machine
end

section
/-! The default identifier layout (30_encoding R76, R77), field by field. -/

namespace Sys2Proof.Machine

/-- The bit put at a place, by its number in the list of places. -/
theorem scatter_getLsbD_of_getElem? {n : Nat} (v : BitVec n) {ps : List Nat} (hnd : ps.Nodup) {i j : Nat}
    (h : ps[i]? = some j) (hj : j < 16) : (scatter v 0 ps).getLsbD j = v.getLsbD i := by
  obtain ⟨hi, rfl⟩ := List.getElem?_eq_some_iff.1 h
  rw [scatter_getLsbD v 0 ps hnd i hi hj, Nat.zero_add]

/-- The places of the upper half: bit 0 of `b2` for `id[16]`, then from bit 4 of `b2` up. -/
theorem IdLayout.default_hi_getElem? : ∀ i < 13, IdLayout.default.hi[i]? = some (if i = 0 then 0 else i + 3) := by
  decide

/-- The lower half stands in `b3:b4` as it is. -/
theorem IdLayout.default_lo_getElem? : ∀ i < 16, IdLayout.default.lo[i]? = some i := by decide

theorem scatter_default_hi (v : BitVec 13) : scatter v 0 IdLayout.default.hi =
    v.extractLsb 12 5 ++ (v.extractLsb 4 1 ++ 0#3 ++ v.extractLsb 0 0 : Byte) := by
  refine BitVec.eq_of_getLsbD_eq fun j hj => ?_
  simp only [BitVec.getLsbD_append, BitVec.getLsbD_extractLsb]
  obtain rfl | hspare | hfield : j = 0 ∨ (1 ≤ j ∧ j ≤ 3) ∨ 4 ≤ j := by omega
  · rw [scatter_getLsbD_of_getElem? v (by decide) (i := 0) rfl hj]
    simp
  · rw [scatter_getLsbD_of_not_mem v 0 _ (by simp [IdLayout.default]; omega)]
    grind
  · have hplace : IdLayout.default.hi[j - 3]? = some j := by
      rw [IdLayout.default_hi_getElem? _ (by omega), if_neg (by omega), Nat.sub_add_cancel (by omega)]
    rw [scatter_getLsbD_of_getElem? v (by decide) hplace hj]
    grind

theorem gather_default_hi (b1 b2 : Byte) :
    gather 13 (b1 ++ b2) 0 IdLayout.default.hi = b1 ++ b2.extractLsb 7 4 ++ b2.extractLsb 0 0 := by
  refine BitVec.eq_of_getLsbD_eq fun j hj => ?_
  rw [gather_getLsbD 13 _ 0 _ j hj, Nat.sub_zero, IdLayout.default_hi_getElem? j hj]
  simp only [BitVec.getLsbD_append, BitVec.getLsbD_extractLsb]
  grind

theorem gather_default_lo (w : BitVec 16) : gather 16 w 0 IdLayout.default.lo = w := by
  refine BitVec.eq_of_getLsbD_eq fun j hj => ?_
  rw [gather_getLsbD 16 _ 0 _ j hj, Nat.sub_zero, IdLayout.default_lo_getElem? j hj]
  simp

theorem scatter_default_lo (v : BitVec 16) : scatter v 0 IdLayout.default.lo = v := by
  rw [← gather_default_lo (scatter v 0 _), gather_scatter v _ (by decide) rfl (by decide)]

/-- A field of a field. -/
theorem extractLsb'_extractLsb' {n : Nat} (x : BitVec n) {a b len len' : Nat} (h : b + len ≤ len') :
    (x.extractLsb' a len').extractLsb' b len = x.extractLsb' (a + b) len := by
  refine BitVec.eq_of_getLsbD_eq fun j hj => ?_
  have hj' : b + j < len' := by omega
  simp only [BitVec.getLsbD_extractLsb', hj, hj', decide_true, Bool.true_and, Nat.add_assoc]

theorem packHi_default (id : Ident) : packHi IdPacking.default (id.extractLsb 28 16) =
    id.extractLsb 28 21 ++ (id.extractLsb 20 17 ++ 0#3 ++ id.extractLsb 16 16 : Byte) := by
  have hb1 : (id.extractLsb 28 16).extractLsb 12 5 = id.extractLsb 28 21 := extractLsb'_extractLsb' id (by decide)
  have hupper : (id.extractLsb 28 16).extractLsb 4 1 = id.extractLsb 20 17 := extractLsb'_extractLsb' id (by decide)
  have hlower : (id.extractLsb 28 16).extractLsb 0 0 = id.extractLsb 16 16 := extractLsb'_extractLsb' id (by decide)
  refine (scatter_default_hi _).trans ?_
  rw [hb1, hupper, hlower]

/-- The default layout's four bytes, bits 3:1 of the second one 0. -/
theorem packIdent_default (id : Ident) : packIdent IdPacking.default id =
    (id.extractLsb 28 21, id.extractLsb 20 17 ++ 0#3 ++ id.extractLsb 16 16, id.extractLsb 15 8,
      id.extractLsb 7 0) := by
  have hlo : packLo IdPacking.default (id.extractLsb 15 0) = id.extractLsb 15 0 := scatter_default_lo _
  have hb3 : upperByte (id.extractLsb 15 0) = id.extractLsb 15 8 := extractLsb'_extractLsb' id (by decide)
  have hb4 : lowerByte (id.extractLsb 15 0) = id.extractLsb 7 0 := extractLsb'_extractLsb' id (by decide)
  simp only [packIdent, packHi_default, hlo, hb3, hb4]
  exact Prod.ext (upperByte_append _ _) (Prod.ext (lowerByte_append _ _) rfl)

/-- The identifier the default layout reads, with no bit from bits 3:1 of `b2`. -/
theorem unpackIdent_default (b1 b2 b3 b4 : Byte) : unpackIdent IdPacking.default b1 b2 b3 b4 =
    b1 ++ b2.extractLsb 7 4 ++ b2.extractLsb 0 0 ++ (b3 ++ b4) := by
  simp only [unpackIdent, unpackWords, IdPacking.default, gather_default_hi, gather_default_lo]

/-- Byte `b2` as R76 puts it together. -/
theorem shiftLeft_or_eq_append (x : BitVec 4) (y : BitVec 1) :
    (x.setWidth 8 <<< 4) ||| y.setWidth 8 = x ++ 0#3 ++ y := by
  decide +revert

/-- Settles O46: `packIdent_default`, the fields of `b2` shifted into their places. -/
theorem idPackDefaultLayout : Obligations.IdPackDefaultLayout := by
  intro s id hp
  rw [exec_idPack, hp, packIdent_default, shiftLeft_or_eq_append]

/-- The identifier as R77 puts it together. -/
theorem shiftLeft_or_fields_eq_append (b1 : Byte) (x : BitVec 4) (y : BitVec 1) (b3 b4 : Byte) :
    (b1.setWidth 29 <<< 21) ||| (x.setWidth 29 <<< 17) ||| (y.setWidth 29 <<< 16) ||| (b3.setWidth 29 <<< 8)
      ||| b4.setWidth 29 = b1 ++ x ++ y ++ (b3 ++ b4) := by
  refine BitVec.eq_of_getLsbD_eq fun j hj => ?_
  simp only [BitVec.getLsbD_append, BitVec.getLsbD_or, BitVec.getLsbD_shiftLeft, BitVec.getLsbD_setWidth]
  grind

/-- Settles O47: `unpackIdent_default`, the fields shifted into their places. -/
theorem idUnpackDefaultLayout : Obligations.IdUnpackDefaultLayout := by
  intro s b1 b2 b3 b4 hp
  rw [exec_idUnpack, hp, unpackIdent_default, shiftLeft_or_fields_eq_append]

/-! ## Bits 3:1 of `b2` (41_codec R140, R143) -/

/-- Clearing bits 3:1 leaves the two fields of `b2`. -/
theorem fields_append_eq_and_mask (b : Byte) : b.extractLsb 7 4 ++ 0#3 ++ b.extractLsb 0 0 = b &&& 0xF1 := by
  decide +revert

theorem extractLsb_and_mask (b : Byte) :
    (b &&& 0xF1).extractLsb 7 4 = b.extractLsb 7 4 ∧ (b &&& 0xF1).extractLsb 0 0 = b.extractLsb 0 0 := by
  decide +revert

theorem unpackIdent_default_and_mask (b1 b2 b3 b4 : Byte) :
    unpackIdent IdPacking.default b1 (b2 &&& 0xF1) b3 b4 = unpackIdent IdPacking.default b1 b2 b3 b4 := by
  obtain ⟨hupper, hlower⟩ := extractLsb_and_mask b2
  rw [unpackIdent_default, hupper, hlower, unpackIdent_default]

/-- An identifier is its fields. -/
theorem fields_append (id : Ident) :
    id.extractLsb 28 21 ++ id.extractLsb 20 17 ++ id.extractLsb 16 16 ++ (id.extractLsb 15 8 ++ id.extractLsb 7 0)
      = id := by
  refine BitVec.eq_of_getLsbD_eq fun j hj => ?_
  simp only [BitVec.getLsbD_append, BitVec.getLsbD_extractLsb]
  grind

/-- Packing undoes unpacking up to the bits no identifier has. -/
theorem packIdent_default_unpackIdent (b1 b2 b3 b4 : Byte) :
    packIdent IdPacking.default (unpackIdent IdPacking.default b1 b2 b3 b4) = (b1, b2 &&& 0xF1, b3, b4) := by
  have hfields := fields_append (unpackIdent IdPacking.default b1 b2 b3 b4)
  rw [unpackIdent_default] at hfields
  obtain ⟨hhi, hlo⟩ := append_eq_append_iff.1 hfields
  obtain ⟨hb1Upper, hlower⟩ := append_eq_append_iff.1 hhi
  obtain ⟨hb1, hupper⟩ := append_eq_append_iff.1 hb1Upper
  obtain ⟨hb3, hb4⟩ := append_eq_append_iff.1 hlo
  rw [unpackIdent_default, packIdent_default, hb1, hupper, hlower, hb3, hb4, fields_append_eq_and_mask]

end Sys2Proof.Machine
end

section
/-! Encoding and decoding of messages (41_codec R133 to R143). -/

namespace Sys2Proof.Machine

/-! ## Encoded frames (41_codec R133, R139) -/

/-- Byte `k` of a message's data field: its own below the DLC, then 0 (30_encoding R79, 41_codec R141). -/
def paddedByte (m : CanMsg) (k : Nat) : Byte := if k < m.dlc then byteAt m.data.toList k else 0

theorem dataField_eq_map_paddedByte (m : CanMsg) : dataField m = (List.range 8).map (paddedByte m) := by
  refine List.ext_getElem (by simp [dataField_length]) fun k hk _ => ?_
  rw [dataField_length] at hk
  by_cases h : k < m.dlc
  · simp [dataField, paddedByte, byteAt, h, hk]
  · simp [dataField, paddedByte, List.getElem_append, h]

theorem frameBody_length (p : IdPacking) (m : CanMsg) : (frameBody p m).length = 12 := by
  simp [frameBody, dataField_length]

/-- The checksum of a frame is the byte sum of its body. -/
theorem cks_cons_append {body : List Byte} (h : body.length = 12) (b : Byte) (tail : List Byte) :
    cks (b :: body ++ tail) = body.sum := by
  rw [cks_eq_sum, List.cons_append, List.drop_succ_cons, List.drop_zero, List.take_left' h]

/-- An encoded frame: its body and the byte sum of that, between the markers. -/
theorem encodeMsg_eq (c : Config) (m : CanMsg) : encodeMsg c m =
    c.startMarker :: frameBody c.packing m ++ [(frameBody c.packing m).sum, c.endMarker] := by
  have h := frameBody_length c.packing m
  simp only [encodeMsg, List.append_assoc, List.singleton_append]
  rw [cks_cons_append h, List.set_append_right _ _ (by simp [h])]
  simp [h]

/-- The fifteen bytes of an encoded frame, one by one. -/
theorem encodeMsg_bytes (c : Config) (m : CanMsg) {b1 b2 b3 b4 : Byte}
    (hid : packIdent c.packing m.id = (b1, b2, b3, b4)) :
    encodeMsg c m = [c.startMarker, b1, b2, b3, b4, paddedByte m 0, paddedByte m 1, paddedByte m 2, paddedByte m 3,
      paddedByte m 4, paddedByte m 5, paddedByte m 6, paddedByte m 7,
      b1 + b2 + b3 + b4 + paddedByte m 0 + paddedByte m 1 + paddedByte m 2 + paddedByte m 3 + paddedByte m 4
        + paddedByte m 5 + paddedByte m 6 + paddedByte m 7, c.endMarker] := by
  simp [encodeMsg_eq, frameBody, hid, dataField_eq_map_paddedByte, List.range_succ, BitVec.add_assoc]

/-- Settles O50: the statement's data bytes are the padded ones. -/
theorem encodeResult : Obligations.EncodeResult := by
  intro s m
  rcases hid : packIdent s.cfg.packing m.id with ⟨b1, b2, b3, b4⟩
  refine ⟨b1, b2, b3, b4, by rw [exec_idPack, hid], fun d hd => ?_⟩
  obtain rfl : d = paddedByte m := funext hd
  rw [exec_encode, encodeMsg_bytes s.cfg m hid]

/-- The markers and the checksum stand where `VALIDATE` looks for them. -/
theorem validateFrame_encodeMsg (c : Config) (m : CanMsg) : validateFrame c (encodeMsg c m) = true := by
  refine validateFrame_iff.2 ⟨encodeMsg_length c m, ?_⟩
  have hcks := cks_cons_append (frameBody_length c.packing m) c.startMarker [(frameBody c.packing m).sum, c.endMarker]
  rw [encodeMsg_eq, hcks]
  simp [byteAt, frameBody_length]

/-- Settles O55: `validateFrame_encodeMsg`, its checks one by one. -/
theorem encodedFramesValidate : Obligations.EncodedFramesValidate := by
  intro s m
  have hvalid := validateFrame_encodeMsg s.cfg m
  obtain ⟨hlen, hstart, hend, hcks⟩ := validateFrame_iff.1 hvalid
  refine ⟨_, exec_encode m s, hlen, hstart, hend, (exec_checksum_eq_iff (by omega)).2 hcks,
    exec_validate_true_iff.2 hvalid, ?_⟩
  rw [exec_decodeStrict, exec_decode, decodeStrictMsg_of_validateFrame hvalid]

/-! ## Decoded messages (41_codec R134, R138, R140) -/

/-- Settles O51: the message is read by the bytes' places, and any other length fails. -/
theorem decodeResultOfAnyList : Obligations.DecodeResultOfAnyList := by
  refine fun s => ⟨fun b0 b1 b2 b3 b4 d0 d1 d2 d3 d4 d5 d6 d7 b13 b14 => ⟨_, exec_idUnpack b1 b2 b3 b4 s, ?_⟩,
    fun f hlen => ?_⟩
  · rw [exec_decode, decodeMsg_of_length rfl]
    rfl
  · rw [exec_decode, decodeMsg_of_length_ne hlen]

/-- The message an encoded frame carries. -/
theorem messageOf_encodeMsg {c : Config} (hp : c.packing.ok = true) (m : CanMsg) :
    messageOf c.packing (encodeMsg c m) = ⟨m.id, 8, Vector.ofFn fun k => paddedByte m k⟩ := by
  have hid := unpackIdent_packIdent hp m.id
  rw [encodeMsg_bytes c m rfl]
  exact congrArg (fun id => CanMsg.mk id 8 _) hid

/-- Settles O54: `messageOf_encodeMsg`, the padded data byte by byte. -/
theorem codecRoundTrip : Obligations.CodecRoundTrip := by
  refine fun s m hp _ => ⟨_, Vector.ofFn fun k => paddedByte m k, exec_encode m s, ?_, fun k hk => ?_⟩
  · rw [exec_decode, decodeMsg_of_length (encodeMsg_length _ _), messageOf_encodeMsg hp]
  · simp [paddedByte, byteAt]

/-- A message is read from bytes 5 to 12 and from what the identifier bytes unpack to. -/
theorem messageOf_congr {p : IdPacking} {f g : List Byte}
    (hid : unpackIdent p (byteAt f 1) (byteAt f 2) (byteAt f 3) (byteAt f 4) =
      unpackIdent p (byteAt g 1) (byteAt g 2) (byteAt g 3) (byteAt g 4))
    (hdata : ∀ k, 5 ≤ k → k ≤ 12 → byteAt f k = byteAt g k) : messageOf p f = messageOf p g := by
  simp [messageOf, hid, hdata]

/-- Settles O56: the same identifier is unpacked, in the default layout because the bits that differ are cleared. -/
theorem decodeIgnoresMarkersChecksumAndSpareBits : Obligations.DecodeIgnoresMarkersChecksumAndSpareBits := by
  intro s f g hf hg
  rw [exec_decode, exec_decode, decodeMsg_of_length hf, decodeMsg_of_length hg]
  refine ⟨fun h => ?_, fun hp h h2 => ?_⟩
  · rw [messageOf_congr (by simp [h]) fun k h5 => h k (by omega)]
  · have hid : unpackIdent s.cfg.packing (byteAt f 1) (byteAt f 2) (byteAt f 3) (byteAt f 4) =
        unpackIdent s.cfg.packing (byteAt g 1) (byteAt g 2) (byteAt g 3) (byteAt g 4) := by
      rw [hp, ← unpackIdent_default_and_mask, h2, unpackIdent_default_and_mask]
      simp [h]
    rw [messageOf_congr hid fun k h5 h12 => h k (by omega) h12 (by omega)]

/-! ## The corrected frame (41_codec R143) -/

/-- The body of a decoded frame encoded again: bits 3:1 of byte 2 are cleared, nothing else changes. -/
theorem frameBody_messageOf_default {f : List Byte} (h : f.length = 15) :
    frameBody IdPacking.default (messageOf IdPacking.default f) =
      byteAt f 1 :: (byteAt f 2 &&& 0xF1) :: (f.drop 3).take 10 := by
  rw [take_drop_eq_map_byteAt (by omega), frameBody]
  simp only [messageOf, packIdent_default_unpackIdent]
  rfl

theorem and_mask_of_spare_zero {b : Byte} (h : b &&& 0x0E = 0) : b &&& 0xF1 = b := by
  decide +revert

/-- Settles O57: `frameBody_messageOf_default` between the markers; a frame that validates has the markers and the
checksum already, and with bits 3:1 of byte 2 zero the body too. -/
theorem encodeAfterDecodeCorrectsTheFrame : Obligations.EncodeAfterDecodeCorrectsTheFrame := by
  intro s f hp hlen
  have hbody := frameBody_messageOf_default hlen
  have hg := encodeMsg_eq s.cfg (messageOf IdPacking.default f)
  rw [hp] at hg
  have hg13 : 13 ≤ (encodeMsg s.cfg (messageOf IdPacking.default f)).length := by rw [encodeMsg_length]; decide
  refine ⟨_, _, _, ?_, exec_encode _ s, exec_checksum hg13 s, ?_, fun hvalid hspare => ?_⟩
  · rw [exec_decode, decodeMsg_of_length hlen, hp]
  · rw [hg, cks_cons_append (frameBody_length _ _), hbody]
  · obtain ⟨-, hstart, hend, hcks⟩ := validateFrame_iff.1 (exec_validate_true_iff.1 hvalid)
    rw [and_mask_of_spare_zero hspare] at hbody
    have hsame : (f.drop 1).take 12 = byteAt f 1 :: byteAt f 2 :: (f.drop 3).take 10 := by
      rw [take_drop_eq_map_byteAt (by omega), take_drop_eq_map_byteAt (by omega)]
      rfl
    rw [hg, hbody, ← hsame, ← cks_eq_sum, ← hstart, ← hend, ← hcks]
    exact (eq_cons_body_of_length hlen).symm

end Sys2Proof.Machine
end

section
/-! The broadcaster (43_broadcast_paths R202 to R204): its loop leaves the state said slot by slot. -/

namespace Sys2Proof.Machine

/-- The state in the middle of a broadcast that began in `s`: the registry by now, the actions issued and the number of
answers used so far. -/
def State.midBroadcast (s : State) (slots : List Slot) (issued : List Action) (used : Nat) : State :=
  { s with slots, trace := s.trace ++ issued, answers := s.answers.drop used, draws := s.draws + used }

/-- A broadcast begins with nothing issued and no answer used. -/
theorem State.midBroadcast_start (s : State) : s.midBroadcast s.slots [] 0 = s := by
  simp [State.midBroadcast]

/-- What the description slot by slot says is a broadcast with every slot served. -/
theorem State.afterBroadcast_eq_midBroadcast (f : List Byte) (s : State) :
    s.afterBroadcast f = s.midBroadcast (broadcastSpec f s.answerAt 0 0 s.slots).1
      (broadcastSpec f s.answerAt 0 0 s.slots).2.1 (broadcastSpec f s.answerAt 0 0 s.slots).2.2 := rfl

section
variable (s : State) (slots : List Slot) (issued : List Action) (used : Nat)

@[simp] theorem State.midBroadcast_nextAnswer :
    (s.midBroadcast slots issued used).nextAnswer = s.answerAt used := by
  simp [State.nextAnswer, State.midBroadcast, State.answerAt, List.headD_eq_head?_getD, List.getD_eq_getElem?_getD]

@[simp] theorem State.midBroadcast_afterDraw :
    (s.midBroadcast slots issued used).afterDraw = s.midBroadcast slots issued (used + 1) := by
  simp [State.afterDraw, State.midBroadcast, Nat.add_assoc]

@[simp] theorem State.midBroadcast_emit (a : Action) :
    (s.midBroadcast slots issued used).emit a = s.midBroadcast slots (issued ++ [a]) used := by
  simp [State.emit, State.midBroadcast]

end

section
variable (s : State) (pre rest : List Slot) (sl : Slot) (issued : List Action) (used : Nat)

@[simp] theorem State.midBroadcast_isActive :
    (s.midBroadcast (pre ++ sl :: rest) issued used).isActive pre.length = sl.active := by
  simp [State.isActive, State.midBroadcast]

@[simp] theorem State.midBroadcast_deactivate :
    (s.midBroadcast (pre ++ sl :: rest) issued used).deactivate pre.length =
      s.midBroadcast (pre ++ sl.deactivated :: rest) issued used := by
  simp [State.deactivate, State.modifySlot, State.midBroadcast, List.modify_eq_set_getElem?]

/-- One turn of the loop: the slot is passed over, or asked about, or asked about and written. -/
theorem State.midBroadcast_broadcastSlot (f : List Byte) :
    (s.midBroadcast (pre ++ sl :: rest) issued used).broadcastSlot f pre.length =
      if sl.active then
        if s.answerAt used then
          s.midBroadcast (pre ++ (if s.answerAt (used + 1) then sl else sl.deactivated) :: rest)
            (issued ++ [.write pre.length f (s.answerAt (used + 1))]) (used + 2)
        else s.midBroadcast (pre ++ sl :: rest) issued (used + 1)
      else s.midBroadcast (pre ++ sl :: rest) issued used := by
  simp only [State.broadcastSlot, State.writeSlot, midBroadcast_isActive, midBroadcast_nextAnswer,
    midBroadcast_afterDraw, midBroadcast_emit, midBroadcast_deactivate]
  cases s.answerAt (used + 1) <;> rfl

end

/-- The loop over the slots from `pre.length` on does what the description says of them. -/
theorem State.foldl_broadcastSlot (f : List Byte) (s : State) (rest pre : List Slot) (issued : List Action)
    (used : Nat) :
    (List.range' pre.length rest.length).foldl (State.broadcastSlot f) (s.midBroadcast (pre ++ rest) issued used) =
      s.midBroadcast (pre ++ (broadcastSpec f s.answerAt pre.length used rest).1)
        (issued ++ (broadcastSpec f s.answerAt pre.length used rest).2.1)
        (broadcastSpec f s.answerAt pre.length used rest).2.2 := by
  induction rest generalizing pre issued used with
  | nil => simp [broadcastSpec]
  | cons sl rest ih =>
    have hnext (sl' : Slot) (as : List Action) (n : Nat) := ih (pre ++ [sl']) as n
    simp only [List.append_assoc, List.singleton_append, List.length_append, List.length_singleton] at hnext
    rw [List.length_cons, List.range'_succ, List.foldl_cons, midBroadcast_broadcastSlot, broadcastSpec]
    split_ifs <;> simp only [hnext, List.append_assoc, List.singleton_append]

/-- The broadcast loop is the description slot by slot (43_broadcast_paths R202 to R204). -/
theorem State.broadcast_eq_afterBroadcast (f : List Byte) (s : State) : s.broadcast f = s.afterBroadcast f := by
  have h := State.foldl_broadcastSlot f s s.slots [] [] 0
  rw [List.nil_append, midBroadcast_start, List.length_nil, ← List.range_eq_range'] at h
  exact h

end Sys2Proof.Machine
end

section
/-! The responder (42_responder): the rows of its table, and the client path of each query. -/

namespace Sys2Proof.Machine

/-! ## The table (42_responder R171) -/

theorem exec_respond (f : List Byte) (s : State) :
    exec (.respond f) s = .next { s with result := .replies (respondTo s.cfg f).1 (respondTo s.cfg f).2 } := rfl

/-- A list that is no 5-byte frame to the gateway is given no reply and no log entry. -/
theorem respondTo_of_not_query {c : Config} {f : List Byte} (h : ¬ (f.length = 5 ∧ byteAt f 1 = c.gatewayAddr)) :
    respondTo c f = ([], none) := if_neg h

section
variable {c : Config} {f : List Byte} (hlen : f.length = 5) (hnode : byteAt f 1 = c.gatewayAddr)
include hlen hnode

theorem respondTo_hw (hsel : byteAt f 2 = Config.selHw) : respondTo c f = ([c.cannedHw], none) := by
  simp [respondTo, hlen, hnode, hsel]

theorem respondTo_fw (hok : c.ok = true) (hsel : byteAt f 2 = c.selFw) : respondTo c f = ([c.cannedFw], none) := by
  obtain ⟨hfwHw, -⟩ := Config.selectors_ne_of_ok hok
  simp [respondTo, hlen, hnode, hsel, hfwHw]

theorem respondTo_desc (hok : c.ok = true) (hsel : byteAt f 2 = Config.selDesc) :
    respondTo c f = ([c.cannedDesc1, c.cannedDesc2], none) := by
  obtain ⟨-, -, hfwDesc, -, -, hhwDesc⟩ := Config.selectors_ne_of_ok hok
  simp [respondTo, hlen, hnode, hsel, hfwDesc.symm, hhwDesc.symm]

theorem respondTo_volt (hok : c.ok = true) (hsel : byteAt f 2 = c.selVolt) :
    respondTo c f = ([c.cannedVolt], none) := by
  obtain ⟨-, hvoltHw, -, hvoltDesc, hfwVolt, -⟩ := Config.selectors_ne_of_ok hok
  simp [respondTo, hlen, hnode, hsel, hvoltHw, hvoltDesc, hfwVolt.symm]

theorem respondTo_unknown (hsel : byteAt f 2 ∉ [Config.selHw, c.selFw, Config.selDesc, c.selVolt]) :
    respondTo c f = ([], some (.unknownCommand (byteAt f 2))) := by
  simp only [List.mem_cons, List.not_mem_nil, or_false, not_or] at hsel
  obtain ⟨hhw, hfw, hdesc, hvolt⟩ := hsel
  simp [respondTo, hlen, hnode, hhw, hfw, hdesc, hvolt]

end

/-- Settles O59: `RESPOND` returns what the table says of the frame, whose rows are the five lemmas above. -/
theorem respondTable : Obligations.RespondTable := by
  intro s f hok
  simp only [exec_respond]
  refine ⟨fun h => by rw [respondTo_of_not_query h], fun hlen hnode => ⟨?_, ?_, ?_, ?_, ?_⟩⟩ <;> intro hsel
  · rw [respondTo_hw hlen hnode hsel]
  · rw [respondTo_fw hlen hnode hok hsel]
  · rw [respondTo_desc hlen hnode hok hsel]
  · rw [respondTo_volt hlen hnode hok hsel]
  · rw [respondTo_unknown hlen hnode hsel]

/-! ## The client path of a query (42_responder R172 to R176) -/

/-- What `RESPOND` says of a frame it returns, and the client path logs and broadcasts. -/
theorem respond_and_sysqPath {s : State} {f : List Byte} {rs : List (List Byte)} {l : Option LogEntry}
    (hrow : respondTo s.cfg f = (rs, l)) :
    exec (.respond f) s = .next { s with result := .replies rs l } ∧
      (s.sysqPath f).returning .nothing = .next { (s.emitLog l).broadcastAll rs with result := .nothing } := by
  rw [exec_respond, State.sysqPath, hrow]
  exact ⟨rfl, rfl⟩

/-- Settles O38: the row of each query has one reply and no log entry, whatever byte 3 of its frame is. -/
theorem singleReplyQueriesBroadcastTheirFrame : Obligations.SingleReplyQueriesBroadcastTheirFrame := by
  intro s param hok
  simp only [← State.broadcast_eq_afterBroadcast]
  exact ⟨respond_and_sysqPath (respondTo_hw rfl rfl rfl), respond_and_sysqPath (respondTo_fw rfl rfl hok rfl),
    respond_and_sysqPath (respondTo_volt rfl rfl hok rfl)⟩

/-- Settles O39: the row has two replies, which the client path broadcasts one after the other. -/
theorem descriptionQueryBroadcastsTwoFrames : Obligations.DescriptionQueryBroadcastsTwoFrames := by
  intro s param hok
  simp only [← State.broadcast_eq_afterBroadcast]
  exact respond_and_sysqPath (respondTo_desc rfl rfl hok rfl)

/-- Settles O40: the row has a log entry and no reply, so the client path emits the entry and broadcasts nothing. -/
theorem unknownSelectorIsLogged : Obligations.UnknownSelectorIsLogged :=
  fun _ _ _ hsel => respond_and_sysqPath (respondTo_unknown rfl rfl hsel)

end Sys2Proof.Machine
end

section
/-! The connection registry (43_broadcast_paths R200, R201, R213 to R216): slot ids, connecting, closing. -/

namespace Sys2Proof.Machine

/-- An id that names no slot is refused (R216). -/
theorem State.onSlot_of_le {s : State} {k : Nat} (h : s.nSlots ≤ k) (a : Answer) :
    s.onSlot k a = .refused (.badConnectionId k) := if_neg h.not_gt

theorem State.isActive_of_get {s : State} {k : Nat} {sl : Slot} (h : s.slots[k]? = some sl) :
    s.isActive k = sl.active := by
  rw [State.isActive, h]

/-- Settles O25: both events ask first whether the id names a slot. -/
theorem badConnectionIdRefused : Obligations.BadConnectionIdRefused :=
  fun _ _ _ h => ⟨State.onSlot_of_le h _, State.onSlot_of_le h _⟩

/-- Settles O12: the slot is the one changed, and it becomes a deactivated one. -/
theorem deactivateResult : Obligations.DeactivateResult := by
  intro s i sl hget
  rw [exec, execDeactivate, State.onSlot_of_get hget, State.deactivate, State.modifySlot_of_get hget]
  rfl

/-- Closing an active slot is `DEACTIVATE` (R213). -/
theorem exec_evClosed_of_active {s : State} {k : Nat} (h : s.isActive k = true) :
    exec (.evClosed k) s = exec (.deactivate k) s := by
  simp only [exec, execEvClosed, execDeactivate, h, if_true]

/-- Closing an inactive slot changes nothing (R213). -/
theorem exec_evClosed_of_inactive {s : State} {k : Nat} {sl : Slot} (hget : s.slots[k]? = some sl)
    (h : s.isActive k = false) : exec (.evClosed k) s = .next { s with result := .nothing } := by
  rw [exec, execEvClosed, State.onSlot_of_get hget, h]
  rfl

/-- Settles O28: an active slot is deactivated, by `deactivateResult`; an inactive one is not touched. -/
theorem closedDeactivatesActiveSlot : Obligations.ClosedDeactivatesActiveSlot := by
  intro s k
  refine ⟨fun sl hget hactive => ?_, fun sl hget hinactive => ?_, fun h => State.onSlot_of_le h _⟩
  · rw [exec_evClosed_of_active ((State.isActive_of_get hget).trans hactive), deactivateResult s k sl hget]
  · exact exec_evClosed_of_inactive hget ((State.isActive_of_get hget).trans hinactive)

/-- An inactive slot below which every slot is active is the one a client gets. -/
theorem State.freeSlot_eq_some {s : State} {i : Nat} {sl : Slot} (hget : s.slots[i]? = some sl)
    (hfree : sl.active = false) (hleast : ∀ (j : Nat) (a : Slot), j < i → s.slots[j]? = some a → a.active = true) :
    s.freeSlot = some i := by
  obtain ⟨hi, rfl⟩ := List.getElem?_eq_some_iff.1 hget
  refine List.findIdx?_eq_some_iff_getElem.2 ⟨hi, by simp [hfree], fun j hj => ?_⟩
  simp [hleast j _ hj (List.getElem?_eq_getElem (hj.trans hi))]

/-- With every slot active there is none for a client. -/
theorem State.freeSlot_eq_none {s : State} (h : ∀ sl ∈ s.slots, sl.active = true) : s.freeSlot = none :=
  List.findIdx?_eq_none_iff.2 fun sl hsl => by simp [h sl hsl]

/-- Settles O27: the least inactive slot is the free one, and it becomes an assigned one; with none free the slots are
not touched. -/
theorem connectTakesLeastFreeSlot : Obligations.ConnectTakesLeastFreeSlot := by
  refine fun s => ⟨fun i sl hget hfree hleast => ?_, fun hfull => ?_⟩
  · simp only [exec, execEvConnect, State.freeSlot_eq_some hget hfree hleast, State.modifySlot_of_get hget]
    rfl
  · simp only [exec, execEvConnect, State.freeSlot_eq_none hfull]
    rfl

end Sys2Proof.Machine
end

section
/-! Bytes from a client (43_broadcast_paths R207, R215): the loop of `EV_BYTES`. -/

namespace Sys2Proof.Machine

/-- What a parser reports is a completed frame, by its length (40_parser R109). -/
theorem Parser.exists_wireFrame_of_feed {c : Config} {p : Parser} {b : Byte} {f : List Byte}
    (h : (p.feed c b).2 = some f) : ∃ w : WireFrame, w.bytes = f := by
  obtain ⟨hi, -, hr, rfl⟩ := Parser.feed_reports h
  have hcount : (p.buf.toList.take p.idx ++ [b]).length = p.idx + 1 := by simp; omega
  obtain ⟨hlen, -⟩ := frameReady_iff.1 hr
  rcases hlen with hlen | hlen | hlen <;> rw [← hcount] at hlen
  · exact ⟨.f5 ⟨_, hlen⟩, rfl⟩
  · exact ⟨.f13 ⟨_, hlen⟩, rfl⟩
  · exact ⟨.f15 ⟨_, hlen⟩, rfl⟩

/-- Bytes for an inactive slot are discarded, however many (R215). -/
theorem State.receiveBytes_of_inactive {s : State} {k : Nat} (h : s.isActive k = false) (bytes : List Byte) :
    s.receiveBytes k bytes = s := by
  induction bytes with
  | nil => rfl
  | cons b bs ih => rw [State.receiveBytes_cons, State.receiveByte_of_inactive h, ih]

/-- `EV_BYTES` on an id that names a slot answers what receiving the bytes leaves. -/
theorem exec_evBytes_of_lt {s : State} {k : Nat} (h : k < s.nSlots) (bytes : List Byte) :
    exec (.evBytes k bytes) s = .next ((s.receiveBytes k bytes).setResult .nothing) :=
  exec_evBytes (List.getElem?_eq_getElem h) bytes

/-- `EV_BYTES` on an inactive slot changes nothing (R215). -/
theorem exec_evBytes_of_inactive {s : State} {k : Nat} (hk : k < s.nSlots) (h : s.isActive k = false)
    (bytes : List Byte) : exec (.evBytes k bytes) s = .next { s with result := .nothing } := by
  rw [exec_evBytes_of_lt hk, State.receiveBytes_of_inactive h]
  rfl

/-- `EV_BYTES` does not read what was returned before. -/
theorem exec_evBytes_setResult (r : Result) (k : Nat) (bytes : List Byte) (s : State) :
    exec (.evBytes k bytes) (s.setResult r) = exec (.evBytes k bytes) s := by
  simp only [exec, execEvBytes, State.onSlot, State.setResult_nSlots, State.receiveBytes_setResult]
  rfl

/-- `EV_BYTES` receives the first byte, then runs on the others (R207). -/
theorem exec_evBytes_cons {s : State} {k : Nat} (hk : k < s.nSlots) (b : Byte) (bs : List Byte) :
    exec (.evBytes k (b :: bs)) s = exec (.evBytes k bs) (s.receiveByte k b) := by
  have hk' : k < (s.receiveByte k b).nSlots := by rwa [(kept_receiveByte k s b).nSlots]
  rw [exec_evBytes_of_lt hk, exec_evBytes_of_lt hk', State.receiveBytes_cons]

/-- `CLIENT_FRAME` answers what the client path leaves; the slot id is not read (R208). -/
theorem exec_clientFrame (k : Nat) (w : WireFrame) (s : State) :
    exec (.clientFrame k w) s = (s.clientFrame w.bytes).returning .nothing := rfl

/-- `CLIENT_FRAME` does not read what was returned before. -/
theorem exec_clientFrame_setResult (r : Result) (k : Nat) (w : WireFrame) (s : State) :
    exec (.clientFrame k w) (s.setResult r) = exec (.clientFrame k w) s := by
  rw [exec_clientFrame, exec_clientFrame, State.clientFrame_setResult]
  rfl

/-- Settles O29: a byte for an active slot is fed to its parser, and the frame it completes, if any, goes the client
path before the others are received. -/
theorem evBytesRunsTheLoop : Obligations.EvBytesRunsTheLoop := by
  refine fun s k => ⟨fun hk => exec_evBytes_of_lt hk [], fun b bs hk h => exec_evBytes_of_inactive hk h _,
    fun b bs h => ?_, fun bytes hk => State.onSlot_of_le hk _⟩
  obtain ⟨sl, hget, hactive⟩ := State.isActive_iff.1 h
  have hk : k < s.nSlots := (List.getElem?_eq_some_iff.1 hget).1
  refine ⟨_, _, _, exec_parseByte hget b, rfl, ?_⟩
  rw [exec_evBytes_cons hk, exec_evBytes_setResult]
  rcases State.receiveByte_cases (b := b) hget hactive with ⟨f, hf, e⟩ | ⟨hf, e⟩ <;> rw [hf, e]
  · obtain ⟨w, rfl⟩ := Parser.exists_wireFrame_of_feed hf
    exact ⟨fun hready => (nomatch hready),
      fun _ => ⟨w, _, rfl, exec_clientFrame_setResult _ k w _, (exec_evBytes_setResult _ k bs _).symm⟩⟩
  · exact ⟨fun _ => rfl, fun hready => (nomatch hready)⟩

/-- Settles O30: the bytes left when the slot became inactive are bytes for an inactive slot. -/
theorem inactiveSlotBytesDiscarded : Obligations.InactiveSlotBytesDiscarded := by
  refine fun s k hk => ⟨fun bytes h => exec_evBytes_of_inactive hk h bytes, fun xs ys t hexec hinactive => ?_⟩
  rw [exec_evBytes_of_lt hk] at hexec
  obtain rfl := State.returning_next hexec
  have hinactive' : (s.receiveBytes k xs).isActive k = false := hinactive
  rw [exec_evBytes_of_lt hk, exec_evBytes_of_lt hk, State.receiveBytes_append,
    State.receiveBytes_of_inactive hinactive']

end Sys2Proof.Machine
end

section
/-! Frames to the clients and to the bus (43_broadcast_paths R202 to R212): `BROADCAST`, `EV_CAN_RX`, `CLIENT_FRAME`. -/

namespace Sys2Proof.Machine

/-! ## Broadcasts (R202 to R206) -/

/-- Settles O35: the loop is the description slot by slot. -/
theorem broadcastIsSlotBySlot : Obligations.BroadcastIsSlotBySlot := by
  intro s f
  rw [exec, execBroadcast, State.broadcast_eq_afterBroadcast]
  rfl

/-- With no active slot every turn of the loop passes its slot over (R205). -/
theorem State.broadcast_of_none_active {s : State} (h : ∀ sl ∈ s.slots, sl.active = false) (f : List Byte) :
    s.broadcast f = s := by
  refine List.foldl_fixed' (fun i => if_neg fun hactive => ?_) _
  obtain ⟨sl, hget, ha⟩ := State.isActive_iff.1 hactive
  cases (h sl (List.mem_of_getElem? hget)).symm.trans ha

/-- Settles O36: the loop leaves the state as it is. -/
theorem broadcastToNobody : Obligations.BroadcastToNobody := by
  intro s f h
  rw [exec, execBroadcast, State.broadcast_of_none_active h]
  rfl

/-- Settles O37: the frame told and broadcast is the one `ENCODE` answers. -/
theorem canRxEncodesNotifiesBroadcasts : Obligations.CanRxEncodesNotifiesBroadcasts := by
  refine fun s m => ⟨_, exec_encode m s, ?_⟩
  rw [exec, execEvCanRx, State.broadcast_eq_afterBroadcast]
  rfl

/-! ## Completed frames (R208 to R212) -/

/-- Settles O41: both kinds are logged with their length and byte 1. -/
theorem unrecognizedShapesAreLogged : Obligations.UnrecognizedShapesAreLogged :=
  fun _ _ _ _ _ => ⟨rfl, rfl⟩

theorem State.answerAt_zero (s : State) : s.answerAt 0 = s.nextAnswer := by
  rw [State.answerAt, State.nextAnswer, List.headD_eq_head?_getD, List.head?_eq_getElem?, List.getD_eq_getElem?_getD,
    Nat.add_zero]

/-- A transmission asks once, and the answer says whether a failure is logged (R209). -/
theorem State.transmit_eq_afterTransmit (m : CanMsg) (s : State) : s.transmit m = s.afterTransmit m := by
  rw [State.transmit, State.afterTransmit, State.answerAt_zero]
  cases s.nextAnswer <;> simp [State.emit, State.afterDraw]

section
variable {s : State} {f : List Byte}

/-- Fifteen bytes are told to the display, read as a message and transmitted (R208, R209). -/
theorem State.clientFrame_of_length_15 (h : f.length = 15) :
    s.clientFrame f = (s.emit (.notify .netToBus f)).afterTransmit (messageOf s.cfg.packing f) := by
  simp only [State.clientFrame, h, if_true, State.canFrame, State.canFramePath, decodeMsg_of_length h,
    State.emit_cfg, State.transmit_eq_afterTransmit]

theorem State.clientFrame_of_length_13 (h : f.length = 13) : s.clientFrame f = s.logShape 13 (byteAt f 1) := by
  simp [State.clientFrame, h]

/-- Five bytes to the gateway are a query (R210). -/
theorem State.clientFrame_of_query (h : f.length = 5) (hnode : byteAt f 1 = s.cfg.gatewayAddr) :
    s.clientFrame f = s.sysqPath f := by
  simp [State.clientFrame, h, hnode]

theorem State.clientFrame_of_other_node (h : f.length = 5) (hnode : byteAt f 1 ≠ s.cfg.gatewayAddr) :
    s.clientFrame f = s.logShape 5 (byteAt f 1) := by
  simp [State.clientFrame, h, hnode]

/-- A query's row of the responder's table, logged and broadcast by the client path. -/
theorem returning_clientFrame_of_row {rs : List (List Byte)} {l : Option LogEntry} (h : f.length = 5)
    (hnode : byteAt f 1 = s.cfg.gatewayAddr) (hrow : respondTo s.cfg f = (rs, l)) :
    (s.clientFrame f).returning .nothing = .next { (s.emitLog l).broadcastAll rs with result := .nothing } := by
  rw [State.clientFrame_of_query h hnode]
  exact (respond_and_sysqPath hrow).2

end

/-- Byte `k` of a frame, as its list and as its vector. -/
theorem byteAt_toList {n k : Nat} (v : Vector Byte n) (h : k < n) : byteAt v.toList k = v[k] := by
  simp [byteAt, h]

/-- Settles O43: by the length and the node, and for a query by its row of the responder's table. -/
theorem clientFrameSortsByLengthAndNode : Obligations.ClientFrameSortsByLengthAndNode := by
  intro s k hok
  simp only [exec_clientFrame, WireFrame.bytes, ← State.broadcast_eq_afterBroadcast]
  refine ⟨fun v => ?_, fun v => ?_, fun v hnode => ?_, fun v hnode => ?_⟩
  · rw [State.clientFrame_of_length_15 (by simp), messageOf]
    simp only [byteAt_toList, Nat.reduceLT]
    rfl
  · rw [State.clientFrame_of_length_13 (by simp), byteAt_toList]
    rfl
  · rw [← byteAt_toList] at hnode
    rw [State.clientFrame_of_other_node (by simp) hnode, byteAt_toList]
    rfl
  · have hlen : v.toList.length = 5 := by simp
    rw [← byteAt_toList] at hnode
    rw [← byteAt_toList v (k := 2) (by omega)]
    refine ⟨fun hsel => ?_, fun hsel => ?_, fun hsel => ?_, fun hsel => ?_, fun hsel => ?_⟩
    · exact returning_clientFrame_of_row hlen hnode (respondTo_hw hlen hnode hsel)
    · exact returning_clientFrame_of_row hlen hnode (respondTo_fw hlen hnode hok hsel)
    · exact returning_clientFrame_of_row hlen hnode (respondTo_desc hlen hnode hok hsel)
    · exact returning_clientFrame_of_row hlen hnode (respondTo_volt hlen hnode hok hsel)
    · exact returning_clientFrame_of_row hlen hnode (respondTo_unknown hlen hnode hsel)

end Sys2Proof.Machine
end

section
/-! Reset (70_reset): the values it gives, and that what a parser holds and no rule reads is never observable. -/

namespace Sys2Proof.Machine

/-! ## What no rule reads (70_reset R281)

Two states agree when the second is the first with its slots exchanged for agreeing ones. Every operation reads of a
slot its liveness and, through `PARSE_BYTE`, what its parser has collected; so each takes agreeing states to agreeing
states and answers the same. -/

/-- Parsers in `WAIT` agree, whatever they hold. -/
theorem Parser.agree_of_wait {p q : Parser} (hp : p.st = .wait) (hq : q.st = .wait) : p.Agree q :=
  ⟨hp.trans hq.symm, fun h => nomatch hp.symm.trans h⟩

theorem Parser.agree_clear (p q : Parser) : p.clear.Agree q.clear := Parser.agree_of_wait rfl rfl

/-- A byte takes agreeing parsers to agreeing ones and completes the same frame: a frame is the collected bytes and the
byte that ends it (40_parser R100). -/
theorem Parser.Agree.feed {c : Config} {p q : Parser} (h : p.Agree q) (b : Byte) :
    (p.feed c b).1.Agree (q.feed c b).1 ∧ (p.feed c b).2 = (q.feed c b).2 := by
  obtain ⟨hst, hcollected⟩ := h
  cases hp : p.st with
  | wait =>
    have hq : q.st = .wait := hst.symm.trans hp
    by_cases hb : b = c.startMarker
    · rw [Parser.feed_wait_start hp hb, Parser.feed_wait_start hq hb]
      refine ⟨⟨rfl, fun _ => ⟨rfl, ?_⟩⟩, rfl⟩
      exact (Parser.take_append (p := { p with idx := 0 }) (by simp)).trans
        (Parser.take_append (p := { q with idx := 0 }) (by simp)).symm
    · rw [Parser.feed_wait_other hp hb, Parser.feed_wait_other hq hb]
      exact ⟨⟨hst, hcollected⟩, rfl⟩
  | collecting =>
    have hq : q.st = .collecting := hst.symm.trans hp
    obtain ⟨hidx, htake⟩ := hcollected hp
    by_cases hfull : 16 ≤ p.idx
    · rw [Parser.feed_full hp hfull, Parser.feed_full hq (hidx ▸ hfull)]
      exact ⟨Parser.agree_of_wait rfl rfl, rfl⟩
    have hpi : p.idx < 16 := by omega
    have hqi : q.idx < 16 := by omega
    have htake' : (p.buf.set p.idx b).toList.take (p.idx + 1) = (q.buf.set q.idx b).toList.take (q.idx + 1) := by
      rw [Parser.take_append hpi, Parser.take_append hqi, htake]
    cases hr : frameReady c (p.idx + 1) b with
    | true =>
      rw [Parser.feed_ready hp hpi hr, Parser.feed_ready hq hqi (hidx ▸ hr)]
      exact ⟨Parser.agree_of_wait rfl rfl, congrArg some htake'⟩
    | false =>
      rw [Parser.feed_append hp hpi hr, Parser.feed_append hq hqi (hidx ▸ hr)]
      exact ⟨⟨by simp only [hidx], fun _ => ⟨by simp only [hidx], htake'⟩⟩, rfl⟩

/-- A byte for the parsers of agreeing slots leaves agreeing slots. -/
theorem Slot.Agree.fed {c : Config} {a b : Slot} (h : a.Agree b) (x : Byte) :
    Slot.Agree { a with parser := (a.parser.feed c x).1 } { b with parser := (b.parser.feed c x).1 } :=
  ⟨h.1, (h.2.feed x).1⟩

section
variable {α : Type} {R : α → α → Prop} {l m : List α}

/-- Lists related element by element are related at each place. -/
theorem forall₂_getElem? (h : List.Forall₂ R l m) (i : Nat) : Option.Rel R l[i]? m[i]? := by
  induction h generalizing i with
  | nil => exact .none
  | cons hab _ ih =>
    cases i with
    | zero => exact .some hab
    | succ i => exact ih i

theorem forall₂_set {a b : α} (h : List.Forall₂ R l m) (hab : R a b) (i : Nat) :
    List.Forall₂ R (l.set i a) (m.set i b) := by
  induction h generalizing i with
  | nil => exact .nil
  | cons hcd htail ih =>
    cases i with
    | zero => exact .cons hab htail
    | succ i => exact .cons hcd (ih i)

theorem forall₂_modify {g : α → α} (h : List.Forall₂ R l m) (hg : ∀ a b, R a b → R (g a) (g b)) (i : Nat) :
    List.Forall₂ R (l.modify i g) (m.modify i g) := by
  induction h generalizing i with
  | nil => cases i <;> exact .nil
  | cons hab htail ih =>
    cases i with
    | zero => exact .cons (hg _ _ hab) htail
    | succ i => exact .cons hab (ih i)

end

/-- A state agrees with itself with agreeing slots in the place of its own. -/
theorem State.agree_withSlots {s : State} {slots : List Slot} (h : List.Forall₂ Slot.Agree s.slots slots) :
    s.Agree { s with slots := slots } :=
  ⟨rfl, h, rfl, rfl, rfl, rfl, rfl, rfl⟩

/-- Agreeing states differ in the slots only. -/
theorem State.Agree.exists_withSlots {s t : State} (h : s.Agree t) :
    ∃ slots, List.Forall₂ Slot.Agree s.slots slots ∧ t = { s with slots := slots } := by
  obtain ⟨hcfg, hslots, htrace, hanswers, hdraws, hpending, hcall, hresult⟩ := h
  exact ⟨t.slots, hslots, State.ext_fields hcfg.symm rfl htrace.symm hanswers.symm hdraws.symm hpending.symm hcall.symm
    hresult.symm⟩

namespace State.Agree

variable {s t : State}

/-! ### What is read of the state -/

theorem slots (h : s.Agree t) : List.Forall₂ Slot.Agree s.slots t.slots := h.2.1

theorem cfg (h : s.Agree t) : s.cfg = t.cfg := h.1

theorem pending (h : s.Agree t) : s.pending = t.pending := by
  obtain ⟨_, -, rfl⟩ := h.exists_withSlots
  rfl

theorem call (h : s.Agree t) : s.call = t.call := by
  obtain ⟨_, -, rfl⟩ := h.exists_withSlots
  rfl

theorem nSlots (h : s.Agree t) : s.nSlots = t.nSlots := h.slots.length_eq

theorem configOk (h : s.Agree t) : s.configOk = t.configOk := by
  rw [State.configOk, State.configOk, h.cfg, h.nSlots]

theorem nextAnswer (h : s.Agree t) : s.nextAnswer = t.nextAnswer := by
  obtain ⟨_, -, rfl⟩ := h.exists_withSlots
  rfl

theorem isActive (h : s.Agree t) (i : Nat) : s.isActive i = t.isActive i := by
  have hget := forall₂_getElem? h.slots i
  unfold State.isActive
  generalize s.slots[i]? = a, t.slots[i]? = b at hget ⊢
  cases hget with
  | none => rfl
  | some hslot => exact hslot.1

/-- The least free slot is found by the liveness of the slots alone. -/
theorem freeSlot (h : s.Agree t) : s.freeSlot = t.freeSlot := by
  have hslots := h.slots
  unfold State.freeSlot
  generalize s.slots = l, t.slots = m at hslots ⊢
  induction hslots with
  | nil => rfl
  | cons hslot _ ih => rw [List.findIdx?_cons, List.findIdx?_cons, hslot.1, ih]

/-! ### Updates -/

theorem emit (h : s.Agree t) (a : Action) : (s.emit a).Agree (t.emit a) := by
  obtain ⟨_, hslots, rfl⟩ := h.exists_withSlots
  exact agree_withSlots hslots

theorem setResult (h : s.Agree t) (r : Result) : (s.setResult r).Agree (t.setResult r) := by
  obtain ⟨_, hslots, rfl⟩ := h.exists_withSlots
  exact agree_withSlots hslots

theorem afterDraw (h : s.Agree t) : s.afterDraw.Agree t.afterDraw := by
  obtain ⟨_, hslots, rfl⟩ := h.exists_withSlots
  exact agree_withSlots hslots

theorem popPending (h : s.Agree t) : s.popPending.Agree t.popPending := by
  obtain ⟨_, hslots, rfl⟩ := h.exists_withSlots
  exact agree_withSlots hslots

theorem clearCall (h : s.Agree t) : s.clearCall.Agree t.clearCall := by
  obtain ⟨_, hslots, rfl⟩ := h.exists_withSlots
  exact agree_withSlots hslots

theorem setSlot (h : s.Agree t) {a b : Slot} (hab : a.Agree b) (i : Nat) : (s.setSlot i a).Agree (t.setSlot i b) := by
  obtain ⟨_, hslots, rfl⟩ := h.exists_withSlots
  exact agree_withSlots (forall₂_set hslots hab i)

theorem modifySlot (h : s.Agree t) {g : Slot → Slot} (hg : ∀ a b, Slot.Agree a b → (g a).Agree (g b)) (i : Nat) :
    (s.modifySlot i g).Agree (t.modifySlot i g) := by
  obtain ⟨_, hslots, rfl⟩ := h.exists_withSlots
  exact agree_withSlots (forall₂_modify hslots hg i)

theorem deactivate (h : s.Agree t) (i : Nat) : (s.deactivate i).Agree (t.deactivate i) :=
  h.modifySlot (fun _ _ _ => ⟨rfl, Parser.agree_clear _ _⟩) i

theorem resetParser (h : s.Agree t) (i : Nat) : (s.resetParser i).Agree (t.resetParser i) :=
  h.modifySlot (g := Slot.resetParser) (fun _ _ hslot => ⟨hslot.1, Parser.agree_clear _ _⟩) i

theorem assign (h : s.Agree t) (i : Nat) : (s.modifySlot i Slot.assigned).Agree (t.modifySlot i Slot.assigned) :=
  h.modifySlot (fun _ _ _ => ⟨rfl, Parser.agree_clear _ _⟩) i

/-- `PARSE_BYTE` reports the same frame. -/
theorem parseByte (h : s.Agree t) (i : Nat) (b : Byte) :
    (s.parseByte i b).1.Agree (t.parseByte i b).1 ∧ (s.parseByte i b).2 = (t.parseByte i b).2 := by
  have hget := forall₂_getElem? h.slots i
  unfold State.parseByte
  rw [← h.cfg]
  generalize s.slots[i]? = p, t.slots[i]? = q at hget ⊢
  cases hget with
  | none => exact ⟨h, rfl⟩
  | some hslot => exact ⟨h.setSlot (hslot.fed b) i, (hslot.2.feed b).2⟩

/-! ### Paths -/

/-- A loop of operations that keep agreement keeps it. -/
theorem foldl {α : Type} {g : State → α → State} (hg : ∀ s t a, State.Agree s t → (g s a).Agree (g t a))
    (h : s.Agree t) (l : List α) : (l.foldl g s).Agree (l.foldl g t) := by
  induction l generalizing s t with
  | nil => exact h
  | cons a l ih => exact ih (hg s t a h)

theorem writeSlot (h : s.Agree t) (f : List Byte) (i : Nat) : (s.writeSlot f i).Agree (t.writeSlot f i) := by
  have hwritten := h.afterDraw.emit (.write i f t.nextAnswer)
  simp only [State.writeSlot, h.nextAnswer]
  split
  · exact hwritten
  · exact hwritten.deactivate i

theorem broadcastSlot (h : s.Agree t) (f : List Byte) (i : Nat) :
    (s.broadcastSlot f i).Agree (t.broadcastSlot f i) := by
  simp only [State.broadcastSlot, h.isActive i, h.nextAnswer]
  split_ifs
  · exact h.afterDraw.writeSlot f i
  · exact h.afterDraw
  · exact h

theorem broadcast (h : s.Agree t) (f : List Byte) : (s.broadcast f).Agree (t.broadcast f) := by
  simp only [State.broadcast, h.nSlots]
  exact h.foldl (fun _ _ i h => h.broadcastSlot f i) _

theorem broadcastAll (h : s.Agree t) (fs : List (List Byte)) : (s.broadcastAll fs).Agree (t.broadcastAll fs) :=
  h.foldl (fun _ _ f h => h.broadcast f) fs

theorem emitLog (h : s.Agree t) (l : Option LogEntry) : (s.emitLog l).Agree (t.emitLog l) := by
  cases l with
  | none => exact h
  | some e => exact h.emit _

theorem sysqPath (h : s.Agree t) (f : List Byte) : (s.sysqPath f).Agree (t.sysqPath f) := by
  simp only [State.sysqPath, h.cfg]
  exact (h.emitLog _).broadcastAll _

theorem transmit (h : s.Agree t) (m : CanMsg) : (s.transmit m).Agree (t.transmit m) := by
  have hsent := h.afterDraw.emit (.transmit m t.nextAnswer)
  simp only [State.transmit, h.nextAnswer]
  split
  · exact hsent
  · exact hsent.emit _

theorem canFrame (h : s.Agree t) (f : List Byte) : (s.canFrame f).Agree (t.canFrame f) := by
  have htold := h.emit (.notify .netToBus f)
  simp only [State.canFrame, State.canFramePath, htold.cfg]
  split
  · exact htold.transmit _
  · exact htold

theorem clientFrame (h : s.Agree t) (f : List Byte) : (s.clientFrame f).Agree (t.clientFrame f) := by
  simp only [State.clientFrame, h.cfg]
  split_ifs
  · exact h.canFrame f
  · exact h.sysqPath f
  · exact h.emit _
  · exact h.emit _

theorem receiveByte (h : s.Agree t) (k : Nat) (b : Byte) : (s.receiveByte k b).Agree (t.receiveByte k b) := by
  obtain ⟨hfed, hframe⟩ := h.parseByte k b
  simp only [State.receiveByte, h.isActive k]
  split
  · generalize s.parseByte k b = p, t.parseByte k b = q at hfed hframe ⊢
    obtain ⟨s', o⟩ := p
    obtain ⟨t', o'⟩ := q
    obtain rfl : o = o' := hframe
    cases o with
    | none => exact hfed
    | some f => exact hfed.clientFrame f
  · exact h

theorem receiveBytes (h : s.Agree t) (k : Nat) (bytes : List Byte) :
    (s.receiveBytes k bytes).Agree (t.receiveBytes k bytes) :=
  h.foldl (fun _ _ b h => h.receiveByte k b) bytes

/-! ### Answers -/

theorem returning (h : s.Agree t) (r : Result) : Answer.Agree (s.returning r) (t.returning r) := h.setResult r

theorem onSlot (h : s.Agree t) (i : Nat) {a b : Answer} (hab : Answer.Agree a b) :
    Answer.Agree (s.onSlot i a) (t.onSlot i b) := by
  simp only [State.onSlot, h.nSlots]
  split
  · exact hab
  · exact rfl

/-- An instruction that dispatches a frame reads the configuration and the liveness of the slots. -/
theorem exec_dispatch (h : s.Agree t) {i : Instr} (hi : isDispatch i = true) : Answer.Agree (exec i s) (exec i t) := by
  cases i <;> simp only [exec, execCanFrame, execSysqHwType, execSysqFwType, execSysqDescription,
    execSysqSupplyVoltage, execSysqUnknown, execEvCanRx, h.cfg]
  case canFrame => exact (h.canFrame _).returning _
  case sysqHwType => exact (h.sysqPath _).returning _
  case sysqFwType => exact (h.sysqPath _).returning _
  case sysqDescription => exact (h.sysqPath _).returning _
  case sysqSupplyVoltage => exact (h.sysqPath _).returning _
  case sysqUnknown => exact (h.sysqPath _).returning _
  case shortUnrecognized => exact (h.emit _).returning _
  case reservedF13 => exact (h.emit _).returning _
  case evCanRx => exact ((h.emit _).broadcast _).returning _
  case broadcast => exact (h.broadcast _).returning _
  case clientFrame => exact (h.clientFrame _).returning _
  all_goals cases hi

/-- A port reads the configuration only (41_codec R137). -/
theorem exec_port (h : s.Agree t) {i : Instr} (hi : isPort i = true) : Answer.Agree (exec i s) (exec i t) := by
  rcases exec_port_eq hi with ⟨g, hg⟩ | ⟨r, hr⟩
  · rw [hg, hg, h.cfg]
    exact h.returning _
  · rw [hr, hr]
    exact rfl

theorem exec_evConnect (h : s.Agree t) : Answer.Agree (exec .evConnect s) (exec .evConnect t) := by
  simp only [exec, execEvConnect, h.freeSlot]
  cases t.freeSlot with
  | none => exact (h.emit _).returning _
  | some i => exact (h.assign i).returning _

theorem exec_evClosed (h : s.Agree t) (k : Nat) : Answer.Agree (exec (.evClosed k) s) (exec (.evClosed k) t) := by
  simp only [exec, execEvClosed, h.isActive k]
  refine h.onSlot k (returning ?_ _)
  split
  · exact h.deactivate k
  · exact h

/-- `PARSE_BYTE` returns the frame it reports, which is the same. -/
theorem exec_parseByte (h : s.Agree t) (n : Nat) (b : Byte) :
    Answer.Agree (exec (.parseByte n b) s) (exec (.parseByte n b) t) := by
  obtain ⟨hfed, hframe⟩ := h.parseByte n b
  simp only [exec, execParseByte, hframe]
  exact h.onSlot n (hfed.returning _)

/-- Every instruction answers agreeing states alike. -/
theorem exec (h : s.Agree t) (i : Instr) : Answer.Agree (exec i s) (exec i t) := by
  rcases instr_cases i with hdispatch | hport | rfl | ⟨k, bytes, rfl⟩ | ⟨k, rfl⟩ | ⟨n, b, rfl⟩ | ⟨n, rfl⟩ | ⟨n, rfl⟩
  · exact h.exec_dispatch hdispatch
  · exact h.exec_port hport
  · exact h.exec_evConnect
  · exact h.onSlot k ((h.receiveBytes k bytes).returning _)
  · exact h.exec_evClosed k
  · exact h.exec_parseByte n b
  · exact h.onSlot n ((h.resetParser n).returning _)
  · exact h.onSlot n ((h.deactivate n).returning _)

/-- A step finds the same in agreeing states: the same reason to stop or idle, or the same instruction to run. -/
theorem step (h : s.Agree t) : Answer.Agree (step s) (step t) := by
  simp only [Machine.step, State.fetch, ← h.cfg, ← h.pending, ← h.call, ← h.configOk]
  cases s.configOk with
  | false => cases s.call <;> cases s.pending <;> exact rfl
  | true =>
    simp only [if_true]
    cases s.call with
    | some d =>
      dsimp only
      cases decode s.cfg d with
      | ok i => exact h.clearCall.exec i
      | error e => exact rfl
    | none =>
      cases s.pending with
      | nil => exact h
      | cons bs rest =>
        dsimp only
        cases decodeInput bs with
        | ok i => exact h.popPending.exec i
        | error e => exact rfl

end State.Agree

/-- Settles O23: a step finds the same in agreeing states, and every instruction answers them alike. -/
theorem hiddenParserContentsAreUnobservable : Obligations.HiddenParserContentsAreUnobservable :=
  fun _ _ h => h.step

/-! ## Values after reset (70_reset R280, R282) -/

/-- Settles O20: the slots are copies of `Slot.reset`, as many as the capacity, and a restart makes them anew. -/
theorem powerOnAndRestartValues : Obligations.PowerOnAndRestartValues := by
  refine ⟨fun c n => ⟨rfl, List.length_replicate, rfl, fun sl hsl => ?_⟩, fun s => ⟨rfl, rfl, rfl⟩⟩
  rw [List.eq_of_mem_replicate hsl]
  exact ⟨rfl, rfl, rfl⟩

end Sys2Proof.Machine
end

section
/-! What every step keeps (10_state R30, R37). -/

namespace Sys2Proof.Machine

/-! ## The invariants of 10_state R37 -/

/-- R37(a) survives what the events do to a slot. -/
theorem slotInvariant_parserOk (c : Config) : SlotInvariant c (fun sl => sl.parser.Ok c) where
  deactivated sl _ := sl.parser.clear_ok c
  assigned sl _ := sl.parser.clear_ok c
  resetParser sl _ := sl.parser.clear_ok c
  fed _ b _ hsl := Parser.Ok.feed hsl b

/-- `PARSE_BYTE` keeps R37(a), on an inactive slot too. -/
theorem State.ParsersOk.parseByte {s : State} (hs : s.ParsersOk) (n : Nat) (b : Byte) :
    (s.parseByte n b).1.ParsersOk := by
  cases hget : s.slots[n]? with
  | none => simpa only [State.parseByte, hget] using hs
  | some sl =>
    have hsl : sl.parser.Ok s.cfg := hs sl (List.mem_of_getElem? hget)
    rw [State.parseByte_of_get hget]
    exact State.EverySlot.setSlot (P := fun sl => sl.parser.Ok s.cfg) hs (hsl.feed b)

/-- Every instruction keeps R37(a), `PARSE_BYTE` tried by itself included. -/
theorem State.ParsersOk.exec {s t : State} {i : Instr} (hs : s.ParsersOk) (h : exec i s = .next t) : t.ParsersOk := by
  by_cases hi : ∃ n b, i = .parseByte n b
  · obtain ⟨n, b, rfl⟩ := hi
    rw [State.returning_next (State.onSlot_next h).2]
    exact hs.parseByte n b
  · have hslots := State.EverySlot.exec (slotInvariant_parserOk s.cfg) hs (fun n b e => hi ⟨n, b, e⟩) h
    rwa [← (kept_exec h).cfg] at hslots

/-- Settles O16: a step idles or runs one instruction, and every instruction keeps R37(a). -/
theorem everyStepKeepsParsersOk : Obligations.EveryStepKeepsParsersOk := by
  intro s t hs h
  rcases step_next_cases h with ⟨rfl, -, -⟩ | ⟨_, _, -, -, hexec⟩ | ⟨_, _, _, -, -, -, hexec⟩
  · exact hs
  · exact State.ParsersOk.exec (s := s.clearCall) hs hexec
  · exact State.ParsersOk.exec (s := s.popPending) hs hexec

/-- Settles O17: `State.Inv.step`, since no input is `PARSE_BYTE` (10_state R32). -/
theorem everyStepKeepsRegistryInvariant : Obligations.EveryStepKeepsRegistryInvariant :=
  fun _ _ hs h => hs.step h

/-- Settles O19: every slot is a reset one, at `State.reset` too, which is a power-on state. -/
theorem powerOnMeetsInvariant : Obligations.PowerOnMeetsInvariant :=
  ⟨State.inv_powerOn, State.inv_powerOn _ _⟩

/-! ## The trace (10_state R30) -/

/-- Settles O22: every instruction extends the trace, and taking it out of the call or the deliveries leaves it. -/
theorem traceOnlyGrows : Obligations.TraceOnlyGrows := by
  intro s t h
  rcases kept_step h with hidle | hcall | hdelivery
  · exact hidle.trace
  · exact hcall.trace
  · exact hdelivery.trace

end Sys2Proof.Machine
end

section
/-! Decoding and encoding (30_encoding): each reads the other back, and the codes that name operations. -/

namespace Sys2Proof

/-! ## Operations (30_encoding R88) -/

/-- An operation whose operands are read back, whatever follows them, is decoded from its code and operands. -/
theorem decode_of_operands {c : Config} {t : Tcode} {operands : List Byte} {i : Instr}
    (h : ∀ more, decodeOperands t (operands ++ more) = .ok (i, more)) :
    decode c (.transaction (t.code :: operands)) = .ok i := by
  have hread := h []
  rw [List.append_nil] at hread
  simp only [decode, decodeTransaction, Tcode.ofByte_code, hread]

/-- An operation is decoded from its encoding: the readers of its operands read back what the writers wrote. -/
theorem decode_encode_of_tcodeOf {i : Instr} {t : Tcode} (h : tcodeOf i = some t) (c : Config) :
    decode c (encode c i) = .ok i := by
  cases i <;> cases h
  all_goals
    refine decode_of_operands fun more => ?_
    simp [decodeOperands, takeNat_putNat, takeBytes_putBytes, takeIdent_putIdent, takeMsg_putMsg, takeFrame_putFrame,
      takeByte, bind, Except.bind, pure, Except.pure]

/-! ## Wire frames (30_encoding R70 to R73, R82) -/

/-- A 15-byte frame is decoded to its fields. -/
theorem decode_frame15 (c : Config) (b1 b2 b3 b4 : Byte) (d : Vector Byte 8) (ck : Byte) :
    decode c (.wireFrame (frame15 c b1 b2 b3 b4 d ck)) = .ok (.canFrame b1 b2 b3 b4 d ck) := by
  have hw := Laws.EncodedShape.isWireFrame_frame15 c b1 b2 b3 b4 d ck
  have hlen : (frame15 c b1 b2 b3 b4 d ck).length = 15 := by simp [frame15]
  simp only [decode, decodeFrame, hw, hlen, if_true]
  obtain ⟨⟨l⟩, h⟩ := d
  match l, h with
  | [_, _, _, _, _, _, _, _], _ => rfl

/-- A 13-byte frame is decoded to its body. -/
theorem decode_frame13 (c : Config) (body : Vector Byte 11) :
    decode c (.wireFrame (frame13 c body)) = .ok (.reservedF13 body) := by
  have hw := Laws.EncodedShape.isWireFrame_frame13 c body
  have hlen : (frame13 c body).length = 13 := by simp [frame13]
  simp only [decode, decodeFrame, hw, hlen, Nat.reduceEqDiff, if_true, if_false]
  obtain ⟨⟨l⟩, h⟩ := body
  match l, h with
  | [_, _, _, _, _, _, _, _, _, _, _], _ => rfl

/-- A 5-byte frame is decoded by its node and, when that is the gateway, by its selector. -/
theorem decode_frame5 (c : Config) (node cmd param : Byte) :
    decode c (.wireFrame (frame5 c node cmd param)) =
      if node = c.gatewayAddr then
        if cmd = Config.selHw then .ok (.sysqHwType param)
        else if cmd = c.selFw then .ok (.sysqFwType param)
        else if cmd = Config.selDesc then .ok (.sysqDescription param)
        else if cmd = c.selVolt then .ok (.sysqSupplyVoltage param)
        else .ok (.sysqUnknown cmd param)
      else .ok (.shortUnrecognized node cmd param) :=
  if_pos (Laws.EncodedShape.isWireFrame_frame5 c node cmd param)

/-- A selector of `SYSQ_UNKNOWN` is none of the four. -/
theorem Config.unknownSelector_iff {c : Config} {sel : Byte} : c.unknownSelector sel = true ↔
    sel ≠ Config.selHw ∧ sel ≠ c.selFw ∧ sel ≠ Config.selDesc ∧ sel ≠ c.selVolt := by
  simp [Config.unknownSelector, and_assoc]

/-- Settles O4: an operation by `decode_encode_of_tcodeOf`, a frame kind by its frame's equation, the selectors being
different ones (00_scope R8). -/
theorem decodeOfEncodeIsIdentity : Obligations.DecodeOfEncodeIsIdentity := by
  intro c i hok hwf
  obtain ⟨hfwHw, hvoltHw, hfwDesc, hvoltDesc, hfwVolt, hhwDesc⟩ := Config.selectors_ne_of_ok hok
  cases i
  case canFrame b1 b2 b3 b4 d ck => exact decode_frame15 c b1 b2 b3 b4 d ck
  case sysqHwType param => simp [encode, decode_frame5]
  case sysqFwType param => simp [encode, decode_frame5, hfwHw]
  case sysqDescription param => simp [encode, decode_frame5, hhwDesc.symm, hfwDesc.symm]
  case sysqSupplyVoltage param => simp [encode, decode_frame5, hvoltHw, hvoltDesc, hfwVolt.symm]
  case sysqUnknown sel param =>
    obtain ⟨hhw, hfw, hdesc, hvolt⟩ := Config.unknownSelector_iff.1 hwf
    simp [encode, decode_frame5, hhw, hfw, hdesc, hvolt]
  case shortUnrecognized node cmd param =>
    have hnode : node ≠ c.gatewayAddr := bne_iff_ne.1 hwf
    simp [encode, decode_frame5, hnode]
  case reservedF13 body => exact decode_frame13 c body
  all_goals exact decode_encode_of_tcodeOf rfl c

/-- Every wire frame is one of the three the encoder builds, from the bytes between its markers. -/
theorem wireFrame_cases {c : Config} {f : List Byte} (h : isWireFrame c f = true) :
    (∃ b1 b2 b3 b4 d ck, f = frame15 c b1 b2 b3 b4 d ck) ∨ (∃ body, f = frame13 c body) ∨
      ∃ node cmd param, f = frame5 c node cmd param := by
  have hlen := length_of_isWireFrame h
  simp only [isWireFrame, Bool.and_eq_true, beq_iff_eq] at h
  obtain ⟨⟨-, hstart⟩, hend⟩ := h
  obtain ⟨cs, rfl⟩ := List.head?_eq_some_iff.1 hstart
  obtain ⟨inner, rfl⟩ : ∃ inner, cs = inner ++ [c.endMarker] := by
    refine List.getLast?_eq_some_iff.1 ?_
    rwa [List.getLast?_cons_of_ne_nil (by rintro rfl; simp at hlen)] at hend
  simp only [List.length_cons, List.length_append, List.length_nil, Nat.reduceEqDiff] at hlen
  rcases hlen with hlen | hlen | hlen
  · match inner, hlen with
    | [b1, b2, b3, b4, d0, d1, d2, d3, d4, d5, d6, d7, ck], _ =>
      exact .inl ⟨b1, b2, b3, b4, #v[d0, d1, d2, d3, d4, d5, d6, d7], ck, rfl⟩
  · exact .inr (.inl ⟨⟨⟨inner⟩, by simpa using hlen⟩, rfl⟩)
  · match inner, hlen with
    | [node, cmd, param], _ => exact .inr (.inr ⟨node, cmd, param, rfl⟩)

/-- What decodes as a wire frame is one. -/
theorem isWireFrame_of_decode {c : Config} {f : List Byte} {i : Instr} (h : decode c (.wireFrame f) = .ok i) :
    isWireFrame c f = true := by
  by_contra hw
  simp [decode, decodeFrame, hw] at h

/-- Settles O5: the frame is one the encoder builds, and the kind it decodes to has its bytes. -/
theorem wireFrameHasOneReading : Obligations.WireFrameHasOneReading := by
  intro c f i h
  rcases wireFrame_cases (isWireFrame_of_decode h) with ⟨b1, b2, b3, b4, d, ck, rfl⟩ | ⟨body, rfl⟩ |
    ⟨node, cmd, param, rfl⟩
  · rw [decode_frame15] at h
    cases h
    exact ⟨rfl, rfl⟩
  · rw [decode_frame13] at h
    cases h
    exact ⟨rfl, rfl⟩
  · rw [decode_frame5] at h
    split_ifs at h with hnode hhw hfw hdesc hvolt <;> obtain rfl := Except.ok.inj h
    · exact ⟨rfl, by rw [hnode, hhw]; rfl⟩
    · exact ⟨rfl, by rw [hnode, hfw]; rfl⟩
    · exact ⟨rfl, by rw [hnode, hdesc]; rfl⟩
    · exact ⟨rfl, by rw [hnode, hvolt]; rfl⟩
    · exact ⟨Config.unknownSelector_iff.2 ⟨hhw, hfw, hdesc, hvolt⟩, by rw [hnode]; rfl⟩
    · exact ⟨bne_iff_ne.2 hnode, rfl⟩

/-! ## The seventeen codes (30_encoding R88) -/

/-- A byte names no operation when it is none of the codes. -/
theorem Tcode.ofByte_eq_none_iff (b : Byte) : Tcode.ofByte b = none ↔ b.toNat ∉
    [0x01, 0x02, 0x03, 0x04, 0x10, 0x11, 0x12, 0x13, 0x14, 0x15, 0x16, 0x20, 0x21, 0x22, 0x23, 0x24, 0x25] := by
  rw [Tcode.ofByte, List.find?_eq_none]
  simp [Tcode.all, Tcode.code, ← BitVec.toNat_inj, eq_comm (b := b.toNat)]

/-- Settles O7: a byte that names no operation is refused as an unknown code; one that does can only be refused for
its operands. -/
theorem onlyTheSeventeenTcodesAreOperations : Obligations.OnlyTheSeventeenTcodesAreOperations := by
  intro c b bs
  rw [← Tcode.ofByte_eq_none_iff]
  cases ht : Tcode.ofByte b with
  | none => simp [decode, decodeTransaction, ht]
  | some t =>
    refine ⟨fun h => ?_, fun h => nomatch h⟩
    simp only [decode, decodeTransaction, ht] at h
    split at h
    case h_1 e he =>
      cases h
      exact (decodeOperands_error he).elim
    all_goals cases h

/-- Settles O6: each word evaluated by the decoder. -/
theorem wordsOfTheTableDecode : Obligations.WordsOfTheTableDecode :=
  ⟨rfl, rfl, rfl, rfl, rfl, rfl, rfl⟩

end Sys2Proof
end

section
/-! The outcome of a step (60_exceptions R268, R269): what it runs, when it idles, and why it stops. -/

namespace Sys2Proof.Machine

/-! ## What a step finds -/

/-- An instruction tried by itself runs on the state without it. -/
theorem step_call_ok {s : State} {d : Delivery} {i : Instr} (hc : s.configOk = true) (hcall : s.call = some d)
    (hd : decode s.cfg d = .ok i) : step s = exec i { s with call := none } := by
  simp [step, State.fetch, State.clearCall, hc, hcall, hd]

/-- What is to be tried by itself and does not decode stops the step with the reason. -/
theorem step_call_error {s : State} {d : Delivery} {e : Reject} (hc : s.configOk = true) (hcall : s.call = some d)
    (hd : decode s.cfg d = .error e) : step s = .refused (.undecodable e) := by
  simp [step, State.fetch, hc, hcall, hd]

/-- With nothing to run the block idles (R268). -/
theorem step_idle {s : State} (hc : s.configOk = true) (hcall : s.call = none) (hp : s.pending = []) :
    step s = .next s := by
  simp [step, State.fetch, hc, hcall, hp]

/-- A configuration that breaks 00_scope R8 is refused, whatever there is to run. -/
theorem step_badConfig {s : State} (hc : s.configOk = false) : step s = .refused .badConfiguration := by
  unfold step State.fetch
  cases s.call <;> cases s.pending <;> simp [hc]

/-- Settles O1: the delivery by `step_delivery_ok`, an instruction tried by itself by `step_call_ok`. -/
theorem stepRunsDecodedInstruction : Obligations.StepRunsDecodedInstruction :=
  fun _ _ hc => ⟨fun _ _ => step_delivery_ok hc, fun _ => step_call_ok hc⟩

/-- Settles O2: one lemma for each of the four. -/
theorem stepIdlesOrRefuses : Obligations.StepIdlesOrRefuses :=
  fun _ => ⟨step_idle, fun _ _ _ => step_delivery_error, fun _ _ => step_call_error, step_badConfig⟩

/-- A step idles, stops because what it finds does not decode, or runs the instruction it finds on a state with as many
slots. -/
theorem step_found_cases {s : State} (hc : s.configOk = true) :
    (s.found = none ∧ step s = .next s) ∨
    (∃ e, s.found = some (.error e) ∧ step s = .refused (.undecodable e)) ∨
    (∃ i u, s.found = some (.ok i) ∧ u.nSlots = s.nSlots ∧ step s = exec i u) := by
  cases hcall : s.call with
  | some d =>
    have hfound : s.found = some (decode s.cfg d) := by simp [State.found, hcall]
    rw [hfound]
    cases hd : decode s.cfg d with
    | error e => exact .inr (.inl ⟨e, rfl, step_call_error hc hcall hd⟩)
    | ok i => exact .inr (.inr ⟨i, { s with call := none }, rfl, rfl, step_call_ok hc hcall hd⟩)
  | none =>
    have hfound : s.found = s.pending.head?.map decodeInput := by simp [State.found, hcall]
    rw [hfound]
    cases hp : s.pending with
    | nil => exact .inl ⟨rfl, step_idle hc hcall hp⟩
    | cons bs rest =>
      rw [List.head?_cons, Option.map_some]
      cases hd : decodeInput bs with
      | error e => exact .inr (.inl ⟨e, rfl, step_delivery_error hc hcall hp hd⟩)
      | ok i => exact .inr (.inr ⟨i, { s with pending := rest }, rfl, rfl, step_delivery_ok hc hcall hp hd⟩)

/-! ## Why an instruction stops -/

/-- An instruction that dispatches a frame goes through. -/
theorem exec_dispatch_completes {i : Instr} (hi : isDispatch i = true) (s : State) : ∃ t, exec i s = .next t := by
  cases i
  case canFrame => exact ⟨_, rfl⟩
  case sysqHwType => exact ⟨_, rfl⟩
  case sysqFwType => exact ⟨_, rfl⟩
  case sysqDescription => exact ⟨_, rfl⟩
  case sysqSupplyVoltage => exact ⟨_, rfl⟩
  case sysqUnknown => exact ⟨_, rfl⟩
  case shortUnrecognized => exact ⟨_, rfl⟩
  case reservedF13 => exact ⟨_, rfl⟩
  case evCanRx => exact ⟨_, rfl⟩
  case broadcast => exact ⟨_, rfl⟩
  case clientFrame => exact ⟨_, rfl⟩
  all_goals cases hi

/-- `EV_CONNECT` goes through, whether or not a slot is free. -/
theorem exec_evConnect_completes (s : State) : ∃ t, exec .evConnect s = .next t := by
  simp only [exec, execEvConnect]
  split <;> exact ⟨_, rfl⟩

/-- A port goes through, but for `CHECKSUM` of fewer than 13 bytes (41_codec R130). -/
theorem exec_port_completes {i : Instr} (hi : isPort i = true) (s : State) :
    (∃ t, exec i s = .next t) ∨ ∃ f, i = .checksum f ∧ f.length < 13 := by
  cases i
  case checksum f =>
    rcases Nat.lt_or_ge f.length 13 with hshort | hlen
    · exact .inr ⟨f, rfl, hshort⟩
    · exact .inl ⟨_, exec_checksum hlen s⟩
  case idPack => exact .inl ⟨_, rfl⟩
  case idUnpack => exact .inl ⟨_, rfl⟩
  case encode => exact .inl ⟨_, rfl⟩
  case decode => exact .inl ⟨_, rfl⟩
  case validate => exact .inl ⟨_, rfl⟩
  case decodeStrict => exact .inl ⟨_, rfl⟩
  case respond => exact .inl ⟨_, rfl⟩
  all_goals cases hi

/-- An operation on a slot that exists goes through. -/
theorem exec_namesSlot_completes {i : Instr} {k : Nat} (hi : namesSlot i k) {s : State} (hk : k < s.nSlots) :
    ∃ t, exec i s = .next t := by
  rcases hi with ⟨_, rfl⟩ | rfl | ⟨_, rfl⟩ | rfl | rfl
  all_goals exact ⟨_, if_pos hk⟩

/-- An operation on an id that names no slot is refused with that id (43_broadcast_paths R216, log entry 17). -/
theorem exec_namesSlot_refused {i : Instr} {k : Nat} (hi : namesSlot i k) {s : State} (hk : s.nSlots ≤ k) :
    exec i s = .refused (.badConnectionId k) := by
  rcases hi with ⟨_, rfl⟩ | rfl | ⟨_, rfl⟩ | rfl | rfl
  all_goals exact State.onSlot_of_le hk _

/-- Settles O26: the three are operations on a slot. -/
theorem internalBadSlotIdRefused : Obligations.InternalBadSlotIdRefused :=
  fun _ _ b h => ⟨exec_namesSlot_refused (.inr (.inr (.inl ⟨b, rfl⟩))) h,
    exec_namesSlot_refused (.inr (.inr (.inr (.inl rfl)))) h, exec_namesSlot_refused (.inr (.inr (.inr (.inr rfl)))) h⟩

/-- The reasons for which an instruction stops in a registry of `n` slots (R269). -/
def StopsWith (i : Instr) (n : Nat) (r : Refusal) : Prop :=
  (∃ k, namesSlot i k ∧ n ≤ k ∧ r = .badConnectionId k) ∨
    ∃ f, i = .checksum f ∧ f.length < 13 ∧ r = .checksumShortInput f.length

/-- An instruction that has a reason to stop is refused with it. -/
theorem StopsWith.exec_eq {i : Instr} {s : State} {r : Refusal} (h : StopsWith i s.nSlots r) :
    exec i s = .refused r := by
  rcases h with ⟨k, hi, hk, rfl⟩ | ⟨f, rfl, hshort, rfl⟩
  · exact exec_namesSlot_refused hi hk
  · exact exec_checksum_short hshort s

/-- An instruction goes through, or it has a reason to stop. -/
theorem exec_completes_or_stops (i : Instr) (s : State) :
    (∃ t, exec i s = .next t) ∨ ∃ r, StopsWith i s.nSlots r := by
  have hkind : isDispatch i = true ∨ isPort i = true ∨ i = .evConnect ∨ ∃ k, namesSlot i k := by
    cases i <;> simp [isDispatch, isPort, namesSlot]
  rcases hkind with hdispatch | hport | rfl | ⟨k, hi⟩
  · exact .inl (exec_dispatch_completes hdispatch s)
  · exact (exec_port_completes hport s).imp_right fun ⟨f, hf, hshort⟩ => ⟨_, .inr ⟨f, hf, hshort, rfl⟩⟩
  · exact .inl (exec_evConnect_completes s)
  · rcases Nat.lt_or_ge k s.nSlots with hk | hk
    · exact .inl (exec_namesSlot_completes hi hk)
    · exact .inr ⟨_, .inl ⟨k, hi, hk, rfl⟩⟩

/-- An instruction is refused with the reasons it has to stop, and with no other. -/
theorem exec_eq_refused_iff {i : Instr} {s : State} {r : Refusal} :
    exec i s = .refused r ↔ StopsWith i s.nSlots r := by
  refine ⟨fun h => ?_, StopsWith.exec_eq⟩
  rcases exec_completes_or_stops i s with ⟨t, hnext⟩ | ⟨r', hstops⟩
  · cases hnext.symm.trans h
  · cases hstops.exec_eq.symm.trans h
    exact hstops

/-- No answer is a fault: there is none to raise (60_exceptions R250). -/
theorem answer_ne_fault (a : Answer) (r : Fault) : a ≠ .fault r := nomatch r

/-- Settles O24: a step that finds an instruction stops as that instruction does, by `exec_eq_refused_iff`. -/
theorem stepStopsOnlyAsNamed : Obligations.StepStopsOnlyAsNamed := by
  refine fun s => ⟨answer_ne_fault _, fun r => ?_⟩
  cases hc : s.configOk with
  | false => simp [step_badConfig hc, eq_comm]
  | true =>
    rcases step_found_cases hc with ⟨hfound, hstep⟩ | ⟨e, hfound, hstep⟩ | ⟨i, u, hfound, hn, hstep⟩
    · simp [hfound, hstep]
    · simp [hfound, hstep, eq_comm]
    · rw [hstep, exec_eq_refused_iff, hn]
      simp [hfound, StopsWith]

end Sys2Proof.Machine
end

section
/-! Received frames (40_parser R110, 43_broadcast_paths R207, 70_reset R286): how bytes are cut into events, the frame a
slot receives, and what is left of a frame that ends early. -/

namespace Sys2Proof.Machine

/-- Settles O31: receiving two lists joined is receiving one after the other, and the empty result between them is not
read. -/
theorem batchingDoesNotMatter : Obligations.BatchingDoesNotMatter := by
  intro s k xs ys hk
  have hn : (s.receiveBytes k xs).nSlots = s.nSlots := (kept_receiveBytes k xs s).nSlots
  refine ⟨_, exec_evBytes_of_lt hk xs, rfl, hn, ?_⟩
  rw [exec_evBytes_setResult, exec_evBytes_of_lt hk, exec_evBytes_of_lt (hn.symm ▸ hk), State.receiveBytes_append]

/-! ## The parser after a frame (40_parser R100, R110) -/

section
variable {c : Config} {p : Parser} {cs : List Byte} {n : Nat}

/-- While a frame is collected, the buffer beyond it is as it was. -/
theorem Parser.feedList_collects_drop (hp : p.st = .wait) (hn : n ≤ cs.length) (hcap : n ≤ 14)
    (hno : NoFrameBefore c cs n) :
    (p.feedList c (c.startMarker :: cs.take n)).1.buf.toList.drop (n + 1) = p.buf.toList.drop (n + 1) := by
  induction n with
  | zero =>
    change (p.feed c c.startMarker).1.buf.toList.drop 1 = _
    rw [Parser.feed_wait_start hp rfl, Vector.toList_set, List.drop_set_of_lt (by decide)]
  | succ n ih =>
    have hno' : NoFrameBefore c cs n := fun j hj => hno j (by omega)
    obtain ⟨-, hst, hidx, -⟩ := Parser.feedList_collects hp (by omega) (by omega) hno'
    replace hidx : (p.feedList c (c.startMarker :: cs.take n)).1.idx = n + 1 := hidx.trans (by simp; omega)
    have hrest := congrArg (List.drop 1) (ih (by omega) (by omega) hno')
    rw [List.drop_drop, List.drop_drop] at hrest
    rw [Parser.feedList_start_take_succ hn,
      Parser.feed_more hst (by omega) (by rw [hidx]; exact hno n n.lt_succ_self), Vector.toList_set,
      List.drop_set_of_lt (by omega), hrest]

/-- The parser that completed a frame is in `WAIT`, with the frame's length as its index and the frame in its buffer. -/
theorem Parser.feedList_frame_parser (hp : p.st = .wait) (hn : n < cs.length) (hcap : n ≤ 14)
    (hno : NoFrameBefore c cs n) (hr : frameReady c (n + 2) (byteAt cs n) = true) :
    ∃ buf : Vector Byte 16, buf.toList = c.startMarker :: cs.take (n + 1) ++ p.buf.toList.drop (n + 2) ∧
      (p.feedList c (c.startMarker :: cs.take (n + 1))).1 = { st := .wait, idx := n + 2, buf := buf } := by
  obtain ⟨-, hst, hidx, hbytes⟩ := Parser.feedList_collects hp hn.le hcap hno
  have hrest := congrArg (List.drop 1) (Parser.feedList_collects_drop hp hn.le hcap hno)
  rw [List.drop_drop, List.drop_drop] at hrest
  rw [Parser.feedList_start_take_succ hn]
  generalize (p.feedList c (c.startMarker :: cs.take n)).1 = q at hst hidx hbytes hrest
  replace hidx : q.idx = n + 1 := hidx.trans (by simp; omega)
  have hlt : q.idx < 16 := by omega
  refine ⟨q.buf.set q.idx (byteAt cs n), ?_, ?_⟩
  · rw [← List.take_append_drop (q.idx + 1) (q.buf.set q.idx _).toList, Parser.take_append hlt, hbytes,
      take_succ_eq_concat_byteAt hn, Vector.toList_set, List.drop_set_of_lt (by omega), hidx, hrest]
    rfl
  · rw [Parser.feed_ready hst hlt (by rw [hidx]; exact hr)]
    simp only [hidx]

end

/-! ## Bytes up to a frame (43_broadcast_paths R207) -/

theorem State.setSlot_setSlot (k : Nat) (a b : Slot) (s : State) : (s.setSlot k a).setSlot k b = s.setSlot k b := by
  simp [State.setSlot]

/-- Dispatching frames leaves a waiting slot waiting, deactivated or not. -/
theorem Served.waiting {s t : State} {k : Nat} {a : Slot} (h : Served s t) (hget : s.slots[k]? = some a)
    (hwait : a.parser.st = .wait) : ∃ b, t.slots[k]? = some b ∧ b.parser.st = .wait := by
  obtain ⟨_, -, hslots⟩ := h.slots
  rcases hslots k with hsame | ⟨sl, _, -, -, hnow, -⟩
  · exact ⟨a, hsame.trans hget, hwait⟩
  · exact ⟨_, hnow, rfl⟩

/-- A slot with its parser fed a list. -/
def Slot.fedList (c : Config) (sl : Slot) (bytes : List Byte) : Slot :=
  { sl with parser := (sl.parser.feedList c bytes).1 }

section
variable {s : State} {k : Nat} {sl : Slot} (hget : s.slots[k]? = some sl) (hactive : sl.active = true)
include hget

theorem State.setSlot_get (a : Slot) : (s.setSlot k a).slots[k]? = some a := by
  simp [(List.getElem?_eq_some_iff.1 hget).1]

include hactive

/-- Bytes that complete no frame go to the slot's parser, and nothing else happens. -/
theorem State.receiveBytes_of_no_frame {bytes : List Byte}
    (h : ∀ o ∈ (sl.parser.feedList s.cfg bytes).2, o = none) :
    s.receiveBytes k bytes = s.setSlot k (sl.fedList s.cfg bytes) := by
  induction bytes generalizing s sl with
  | nil => exact (State.setSlot_self hget).symm
  | cons b bs ih =>
    obtain ⟨hb, hbs⟩ := List.forall_mem_cons.1 h
    rcases State.receiveByte_cases (b := b) hget hactive with ⟨f, hf, -⟩ | ⟨-, e⟩
    · cases hf.symm.trans hb
    · rw [State.receiveBytes_cons, e,
        ih (sl := { sl with parser := (sl.parser.feed s.cfg b).1 }) (State.setSlot_get hget _) hactive hbs,
        State.setSlot_setSlot]
      rfl

/-- Bytes of which the last completes a frame: the frame is dispatched with the parser as it then is. -/
theorem State.receiveBytes_of_frame {bytes f : List Byte} {n : Nat}
    (h : (sl.parser.feedList s.cfg bytes).2 = List.replicate n none ++ [some f]) :
    s.receiveBytes k bytes = (s.setSlot k (sl.fedList s.cfg bytes)).clientFrame f := by
  obtain rfl | ⟨bs, b, rfl⟩ := bytes.eq_nil_or_concat'
  · simp [Parser.feedList] at h
  have hfed : sl.fedList s.cfg (bs ++ [b]) = (sl.fedList s.cfg bs).fedList s.cfg [b] := by
    simp only [Slot.fedList, Parser.feedList_append]
  rw [Parser.feedList_append] at h
  obtain ⟨hnones, hlast⟩ := List.append_inj' h rfl
  rw [State.receiveBytes_append, hfed,
    State.receiveBytes_of_no_frame hget hactive (hnones ▸ fun o => List.eq_of_mem_replicate)]
  have hsome : ((sl.fedList s.cfg bs).parser.feed s.cfg b).2 = some f := (List.cons.inj hlast).1
  rcases State.receiveByte_cases (b := b) (State.setSlot_get hget (sl.fedList s.cfg bs)) hactive with
    ⟨f', hf', e⟩ | ⟨hnone, -⟩
  · cases hf'.symm.trans hsome
    rw [State.receiveBytes_cons, e, State.setSlot_setSlot]
    rfl
  · cases hnone.symm.trans hsome

section
variable {cs : List Byte} {n : Nat} (hwait : sl.parser.st = .wait) (hn : n < cs.length) (hcap : n ≤ 14)
  (hno : NoFrameBefore s.cfg cs n) (hr : frameReady s.cfg (n + 2) (byteAt cs n) = true)
include hwait hn hcap hno hr

/-- A start marker and the bytes up to the first that completes a frame: the frame is dispatched, the parser back in
`WAIT` (40_parser R110). -/
theorem State.receiveBytes_start_frame : ∃ buf : Vector Byte 16,
    buf.toList = s.cfg.startMarker :: cs.take (n + 1) ++ sl.parser.buf.toList.drop (n + 2) ∧
    s.receiveBytes k (s.cfg.startMarker :: cs.take (n + 1)) =
      (s.setSlot k { sl with parser := { st := .wait, idx := n + 2, buf := buf } }).clientFrame
        (s.cfg.startMarker :: cs.take (n + 1)) := by
  obtain ⟨hreport, -⟩ := Parser.feedList_frame hwait hn hcap hno hr
  obtain ⟨buf, hbuf, hparser⟩ := Parser.feedList_frame_parser hwait hn hcap hno hr
  refine ⟨buf, hbuf, ?_⟩
  rw [State.receiveBytes_of_frame hget hactive hreport, Slot.fedList, hparser]

/-- Bytes after the frame that are no start marker find the slot waiting still, whatever dispatching the frame did to
it, and are discarded. -/
theorem State.receiveBytes_frame_noise (hnoise : ∀ b ∈ cs.drop (n + 1), b ≠ s.cfg.startMarker) :
    s.receiveBytes k (s.cfg.startMarker :: cs) = s.receiveBytes k (s.cfg.startMarker :: cs.take (n + 1)) := by
  obtain ⟨buf, -, hframe⟩ := State.receiveBytes_start_frame hget hactive hwait hn hcap hno hr
  have hserved := hframe ▸ served_clientFrame (s.cfg.startMarker :: cs.take (n + 1))
    (s.setSlot k { sl with parser := { st := .wait, idx := n + 2, buf := buf } })
  obtain ⟨sl', hget', hwait'⟩ := hserved.waiting (State.setSlot_get hget _) rfl
  have hcfg : (s.receiveBytes k (s.cfg.startMarker :: cs.take (n + 1))).cfg = s.cfg := hserved.cfg
  rw [← hcfg] at hnoise
  conv_lhs => rw [← List.take_append_drop (n + 1) cs, ← List.cons_append, State.receiveBytes_append]
  exact State.receiveBytes_noise hget' hwait' hnoise

end

end

/-! ## Whole frames and cut frames -/

/-- A wire frame is a start marker and bytes of which the last completes it. -/
theorem wireFrame_eq_cons {c : Config} {f : List Byte} (h : isWireFrame c f = true) :
    ∃ cs n, f = c.startMarker :: cs ∧ cs.length = n + 1 ∧ frameReady c (n + 2) (byteAt cs n) = true := by
  rcases wireFrame_cases h with ⟨b1, b2, b3, b4, d, ck, rfl⟩ | ⟨body, rfl⟩ | ⟨node, cmd, param, rfl⟩
  · exact ⟨_, 13, rfl, by simp, frameReady_iff.2 ⟨by decide, by simp [byteAt]⟩⟩
  · exact ⟨_, 11, rfl, by simp, frameReady_iff.2 ⟨by decide, by simp [byteAt]⟩⟩
  · exact ⟨_, 3, rfl, rfl, frameReady_iff.2 ⟨by decide, rfl⟩⟩

theorem byteAt_cons_succ (b : Byte) (bs : List Byte) (k : Nat) : byteAt (b :: bs) (k + 1) = byteAt bs k := rfl

/-- Settles O32: no byte before the last ends the frame, so it is dispatched whole. -/
theorem receivedFrameIsDispatched : Obligations.ReceivedFrameIsDispatched := by
  intro s k sl w hget hactive hwait hw h4 h12
  obtain ⟨cs, n, hf, hlen, hr⟩ := wireFrame_eq_cons hw
  rw [hf, byteAt_cons_succ, List.length_cons, hlen] at h4 h12
  obtain ⟨hterminal, -⟩ := frameReady_iff.1 hr
  have hno : NoFrameBefore s.cfg cs n :=
    noFrameBefore_of_ne (fun _ => h4 (by omega)) (fun _ => h12 (by omega)) (by omega)
  obtain ⟨buf, hbuf, hframe⟩ := State.receiveBytes_start_frame hget hactive hwait (by omega) (by omega) hno hr
  rw [List.take_of_length_le hlen.le, ← hf] at hbuf hframe
  have hlen' : w.bytes.length = n + 2 := by rw [hf, List.length_cons, hlen]
  rw [hlen']
  refine ⟨buf, _, hbuf, exec_clientFrame k w _, ?_⟩
  rw [exec_evBytes hget, hframe]
  rfl

/-- Settles O33: the frame ends at the end marker, and what is left of it is noise. -/
theorem prematureTerminatorCutsTheFrame : Obligations.PrematureTerminatorCutsTheFrame := by
  intro s k sl f hget hactive hwait hw hlen
  obtain ⟨cs, -, rfl, -⟩ := wireFrame_eq_cons hw
  have hcs : cs.length = 14 := Nat.succ.inj hlen
  rw [exec_evBytes hget, exec_evBytes hget, exec_evBytes hget]
  refine ⟨fun h4 hnoise => ?_, fun h4 h12 hnoise => ?_⟩
  · rw [State.receiveBytes_frame_noise hget hactive hwait (n := 3) (by omega) (by omega)
      (noFrameBefore_of_ne (by omega) (by omega) (by omega)) (frameReady_iff.2 ⟨by decide, h4⟩) hnoise]
    rfl
  · rw [State.receiveBytes_frame_noise hget hactive hwait (n := 11) (by omega) (by omega)
      (noFrameBefore_of_ne (fun _ => h4) (by omega) (by omega)) (frameReady_iff.2 ⟨by decide, h12⟩) hnoise]
    rfl

end Sys2Proof.Machine
end

section
/-! Frames and their kinds (30_encoding R82, 43_broadcast_paths R208): a kind does what the client path does with its
frame. -/

namespace Sys2Proof.Machine

/-- A frame kind does what the client-receive path does with the frame it stands for. -/
theorem exec_of_encode_wireFrame {s : State} {i : Instr} {f : List Byte} (hwf : WellFormed s.cfg i = true)
    (h : encode s.cfg i = .wireFrame f) : exec i s = (s.clientFrame f).returning .nothing := by
  cases i <;> cases h
  case canFrame b1 b2 b3 b4 d ck =>
    have hlen : (frame15 s.cfg b1 b2 b3 b4 d ck).length = 15 := by simp [frame15]
    rw [State.clientFrame, if_pos hlen]
    rfl
  case shortUnrecognized node cmd param =>
    have hnode : node ≠ s.cfg.gatewayAddr := bne_iff_ne.1 hwf
    rw [State.clientFrame_of_other_node (f := frame5 s.cfg node cmd param) rfl hnode]
    rfl
  case reservedF13 body =>
    have hlen : (frame13 s.cfg body).length = 13 := by simp [frame13]
    have hbyte : byteAt (frame13 s.cfg body) 1 = body[0] := by simp [frame13, byteAt]
    rw [State.clientFrame_of_length_13 hlen, hbyte]
    rfl
  all_goals
    rw [State.clientFrame_of_query rfl rfl]
    rfl

/-- Settles O9: the frame is the one its kind stands for, by `wireFrameHasOneReading`. -/
theorem clientFrameRunsTheFramesKind : Obligations.ClientFrameRunsTheFramesKind := by
  intro s k w i h
  obtain ⟨hwf, hencode⟩ := wireFrameHasOneReading s.cfg w.bytes i h
  rw [exec_clientFrame, exec_of_encode_wireFrame hwf hencode]

/-- The message a frame carries, from its fields. -/
theorem messageOf_frame15 (c : Config) (b1 b2 b3 b4 : Byte) (d : Vector Byte 8) (ck : Byte) :
    messageOf c.packing (frame15 c b1 b2 b3 b4 d ck) = ⟨unpackIdent c.packing b1 b2 b3 b4, 8, d⟩ := by
  obtain ⟨⟨l⟩, h⟩ := d
  match l, h with
  | [_, _, _, _, _, _, _, _], _ => rfl

/-- Settles O42: the kind does what the client path does with its 15 bytes. -/
theorem canFrameIsTransmitted : Obligations.CanFrameIsTransmitted := by
  intro s b1 b2 b3 b4 ck d
  have hlen : (frame15 s.cfg b1 b2 b3 b4 d ck).length = 15 := by simp [frame15]
  refine ⟨_, exec_idUnpack b1 b2 b3 b4 s, ?_⟩
  rw [exec_of_encode_wireFrame rfl rfl, State.clientFrame_of_length_15 hlen, messageOf_frame15]
  rfl

end Sys2Proof.Machine
end

section
/-! What dispatching frames and receiving bytes leave alone (40_parser R112, 43_broadcast_paths R203). -/

namespace Sys2Proof.Machine

theorem State.setSlot_get_ne {k j : Nat} (h : k ≠ j) (a : Slot) (s : State) :
    (s.setSlot k a).slots[j]? = s.slots[j]? := List.getElem?_set_ne h

/-- What serving frames does to the other slots does not depend on slot `k`. -/
theorem Served.setSlot {s t : State} (h : Served s t) (k : Nat) (a : Slot) : Served (s.setSlot k a) (t.setSlot k a) := by
  obtain ⟨hcfg, hpending, hcall, hresult, hn, as, htrace, hslots⟩ := h
  refine ⟨hcfg, hpending, hcall, hresult, by simpa using hn, as, htrace, fun j => ?_⟩
  simp only [State.setSlot_slots, List.getElem?_set]
  split
  · exact .inl (by rw [← State.nSlots, ← State.nSlots, hn])
  · exact hslots j

/-- Receiving a byte on slot `k` serves the other slots: seen with slot `k` overwritten, feeding its parser is no
change. -/
theorem served_receiveByte_setSlot (k : Nat) (a : Slot) (s : State) (b : Byte) :
    Served (s.setSlot k a) ((s.receiveByte k b).setSlot k a) := by
  cases hk : s.isActive k with
  | false => rw [State.receiveByte_of_inactive hk]; exact .refl _
  | true =>
    obtain ⟨sl, hget, hactive⟩ := State.isActive_iff.1 hk
    have hfed := State.setSlot_setSlot k { sl with parser := (sl.parser.feed s.cfg b).1 } a s
    rcases State.receiveByte_cases (b := b) hget hactive with ⟨f, -, e⟩ | ⟨-, e⟩ <;> rw [e, ← hfed]
    · exact (served_clientFrame f _).setSlot k a
    · rw [hfed]
      exact .refl _

theorem served_receiveBytes_setSlot (k : Nat) (a : Slot) (bytes : List Byte) (s : State) :
    Served (s.setSlot k a) ((s.receiveBytes k bytes).setSlot k a) := by
  induction bytes generalizing s with
  | nil => exact .refl _
  | cons b bs ih => exact (served_receiveByte_setSlot k a s b).trans (ih _)

/-- Settles O34: a dispatching instruction serves every slot, `EV_BYTES` every slot but the receiving one. -/
theorem otherSlotsChangeOnlyByFailedWrite : Obligations.OtherSlotsChangeOnlyByFailedWrite := by
  intro s t i k hi hexec
  have hkept := kept_exec hexec
  refine ⟨hkept.cfg, hkept.pending, hkept.call, hkept.nSlots, ?_⟩
  rcases hi with ⟨hdispatch, rfl⟩ | ⟨c, bytes, rfl, rfl⟩
  · obtain ⟨u, hserved, rfl⟩ := exec_dispatch_next hdispatch hexec
    obtain ⟨as, htrace, hslots⟩ := hserved.slots
    refine ⟨as, htrace, fun j _ => (hslots j).imp_right ?_⟩
    rintro ⟨sl, f, hget, hactive, hnow, hwrite⟩
    exact ⟨sl, f, hget, hactive, hwrite, hnow⟩
  · obtain rfl := State.returning_next (State.onSlot_next hexec).2
    obtain ⟨as, htrace, hslots⟩ := (served_receiveBytes_setSlot c Slot.reset bytes s).slots
    refine ⟨as, htrace, fun j hj => ?_⟩
    have hother := hslots j
    rw [State.setSlot_get_ne (hj <| congrArg some ·), State.setSlot_get_ne (hj <| congrArg some ·)] at hother
    refine hother.imp_right ?_
    rintro ⟨sl, f, hget, hactive, hnow, hwrite⟩
    exact ⟨sl, f, hget, hactive, hwrite, hnow⟩

end Sys2Proof.Machine
end

section
/-! What is never transmitted (42_responder R177, 43_broadcast_paths R206): queries and messages from the bus. -/

namespace Sys2Proof.Machine

/-- The trace grows by actions none of which transmits. -/
def Untransmitted (s t : State) : Prop := ∃ as, t.trace = s.trace ++ as ∧ ∀ m ok, .transmit m ok ∉ as

theorem Untransmitted.refl (s : State) : Untransmitted s s := ⟨[], by simp, by simp⟩

theorem Untransmitted.trans {s t u : State} (h : Untransmitted s t) (h' : Untransmitted t u) : Untransmitted s u := by
  obtain ⟨as, htrace, hnone⟩ := h
  obtain ⟨bs, htrace', hnone'⟩ := h'
  refine ⟨as ++ bs, by rw [htrace', htrace, List.append_assoc], fun m ok hmem => ?_⟩
  rcases List.mem_append.1 hmem with hmem | hmem
  · exact hnone m ok hmem
  · exact hnone' m ok hmem

theorem untransmitted_emit {a : Action} (ha : ∀ m ok, a ≠ .transmit m ok) (s : State) : Untransmitted s (s.emit a) :=
  ⟨[a], rfl, fun m ok hmem => ha m ok (List.mem_singleton.1 hmem).symm⟩

/-- A broadcast issues writes only (R202). -/
theorem mem_broadcastSpec {f : List Byte} {ask : Nat → Bool} {a : Action} {slots : List Slot} {i n : Nat}
    (h : a ∈ (broadcastSpec f ask i n slots).2.1) : ∃ j ok, a = .write j f ok := by
  induction slots generalizing i n with
  | nil => simp [broadcastSpec] at h
  | cons sl rest ih =>
    unfold broadcastSpec at h
    split at h
    · split at h
      · rcases List.mem_cons.1 h with rfl | h
        · exact ⟨_, _, rfl⟩
        · exact ih h
      · exact ih h
    · exact ih h

theorem untransmitted_broadcast (f : List Byte) (s : State) : Untransmitted s (s.broadcast f) := by
  rw [State.broadcast_eq_afterBroadcast]
  refine ⟨_, rfl, fun m ok hmem => ?_⟩
  obtain ⟨_, _, hwrite⟩ := mem_broadcastSpec hmem
  cases hwrite

theorem untransmitted_broadcastAll (fs : List (List Byte)) (s : State) : Untransmitted s (s.broadcastAll fs) := by
  induction fs generalizing s with
  | nil => exact .refl s
  | cons f fs ih => exact (untransmitted_broadcast f s).trans (ih _)

theorem untransmitted_sysqPath (f : List Byte) (s : State) : Untransmitted s (s.sysqPath f) := by
  refine Untransmitted.trans ?_ (untransmitted_broadcastAll _ _)
  cases (respondTo s.cfg f).2 with
  | none => exact .refl s
  | some e => exact untransmitted_emit (by simp) s

/-- Five bytes are a query or are logged (R210, R212). -/
theorem untransmitted_clientFrame5 {f : List Byte} (h : f.length = 5) (s : State) :
    Untransmitted s (s.clientFrame f) := by
  by_cases hnode : byteAt f 1 = s.cfg.gatewayAddr
  · rw [State.clientFrame_of_query h hnode]
    exact untransmitted_sysqPath f s
  · rw [State.clientFrame_of_other_node h hnode]
    exact untransmitted_emit (by simp) s

theorem Untransmitted.returning {s u t : State} {r : Result} (hu : Untransmitted s u) (h : u.returning r = .next t) :
    Untransmitted s t := by
  rw [State.returning_next h]
  exact hu

/-- Settles O44: the queries, the short frames and the bus messages log, notify and broadcast, and nothing else. -/
theorem queriesAndBusMessagesAreNeverTransmitted : Obligations.QueriesAndBusMessagesAreNeverTransmitted := by
  intro s t i hi h
  rcases hi with ⟨p, rfl⟩ | ⟨p, rfl⟩ | ⟨p, rfl⟩ | ⟨p, rfl⟩ | ⟨n, p, rfl⟩ | ⟨n, k, p, rfl⟩ | ⟨k, v, rfl⟩ | ⟨m, rfl⟩
  · exact (untransmitted_sysqPath _ s).returning h
  · exact (untransmitted_sysqPath _ s).returning h
  · exact (untransmitted_sysqPath _ s).returning h
  · exact (untransmitted_sysqPath _ s).returning h
  · exact (untransmitted_sysqPath _ s).returning h
  · exact (untransmitted_emit (by simp) s).returning h
  · exact (untransmitted_clientFrame5 (by simp [WireFrame.bytes]) s).returning h
  · exact ((untransmitted_emit (by simp) s).trans (untransmitted_broadcast _ _)).returning h

end Sys2Proof.Machine
end

section
/-! The responder's replies are frames that validate (30_encoding R86, 42_responder R179). -/

namespace Sys2Proof.Machine

/-- A canned frame between the markers with a valid checksum validates. -/
theorem validateFrame_of_canned {c : Config} {f : List Byte} (hok : c.cannedOk f = true) (hcks : cannedChecksumOk f) :
    validateFrame c f = true := by
  simp only [Config.cannedOk, Bool.and_eq_true, beq_iff_eq] at hok
  obtain ⟨⟨hlen, hstart⟩, hend⟩ := hok
  refine validateFrame_iff.2 ⟨hlen, ?_, ?_, hcks⟩
  · simp [byteAt, List.getD_eq_getElem?_getD, hstart]
  · simp [byteAt, List.getD_eq_getElem?_getD, hend]

/-- The table's replies are at most two, each a canned frame (R171). -/
theorem respondTo_replies (c : Config) (f : List Byte) : (respondTo c f).1.length ≤ 2 ∧
    ∀ r ∈ (respondTo c f).1, r ∈ [c.cannedHw, c.cannedFw, c.cannedDesc1, c.cannedDesc2, c.cannedVolt] := by
  unfold respondTo
  split_ifs <;> simp

/-- Settles O60: every reply is a canned frame, which has its markers by 00_scope R8 and its checksum by `CANNED_WF`. -/
theorem repliesAreValidFrames : Obligations.RepliesAreValidFrames := by
  intro s f hok ⟨hhw, hfw, hdesc1, hdesc2, hvolt⟩
  obtain ⟨hcount, hcanned⟩ := respondTo_replies s.cfg f
  simp only [Config.ok, Bool.and_eq_true] at hok
  obtain ⟨⟨⟨⟨⟨⟨-, hhwOk⟩, hfwOk⟩, hdesc1Ok⟩, hdesc2Ok⟩, hvoltOk⟩, -⟩ := hok
  refine ⟨_, _, exec_respond f s, hcount, fun r hr => exec_validate_true_iff.2 ?_⟩
  have hrow := hcanned r hr
  simp only [List.mem_cons, List.not_mem_nil, or_false] at hrow
  rcases hrow with rfl | rfl | rfl | rfl | rfl
  · exact validateFrame_of_canned hhwOk hhw
  · exact validateFrame_of_canned hfwOk hfw
  · exact validateFrame_of_canned hdesc1Ok hdesc1
  · exact validateFrame_of_canned hdesc2Ok hdesc2
  · exact validateFrame_of_canned hvoltOk hvolt

end Sys2Proof.Machine
end
